-- ==== Sys2Proof/Word.lean ====
section
/-! DEFINITION. The word types of the MM3 core (spec 00_scope.md, R8): unsigned values of 8, 32, 64 and 128
bits, bit 0 least significant.  The block has no signed value, so there is no sign extension anywhere.  Addition
and multiplication on these types wrap modulo `2 ^ W` (R9), which is what `BitVec` addition and multiplication
do. -/

namespace Sys2Proof

/-- R8: a byte. -/
abbrev Byte := BitVec 8

/-- R8: a 32-bit value (CMD, a streaming or x86-128 lane, STATUS, SRCERR). -/
abbrev Word32 := BitVec 32

/-- R8: a 64-bit value (OPD, an x64-128 lane). -/
abbrev Word64 := BitVec 64

/-- R8: a 128-bit value (RES). -/
abbrev Word128 := BitVec 128

end Sys2Proof
end

