-- ==== Sys2Proof/Config.lean ====
section
/-! DEFINITION. The block's parameters (spec 00_scope.md, R7) and the values the model gives at reset to registers
for which R250 states no value (notes/assumptions/2.md, DESIGN CHOICE). -/

namespace Sys2Proof

/-- R7, R29 (`OPEN` parameter `N_CTX`, "1 to 16; default 1", decision D9): the number of streaming contexts of the
machine that `State.reset` and `decodeTableWord` describe.  It is only that default: `step` and `exec` read the
number of contexts from the state itself (`State.nCtx`), so a statement about every state covers every value of
the parameter. -/
def Config.nCtx : Nat := 1

/-- R7: the largest `N_CTX`, the number of values of the 4-bit field CTX. -/
def Config.maxCtx : Nat := 16

/-- R7, R76: LEN has 20 bits, so a payload has fewer bytes than this. -/
abbrev Config.payloadLimit : Nat := 2 ^ 20

/-- R7: the block size of both 128-bit variants, in bytes. -/
abbrev Config.blockBytes : Nat := 16

/-- R250 states no value for RES after reset.  DESIGN CHOICE (notes/assumptions/2.md): zero. -/
def Config.resetRes : Word128 := 0#128

/-- R250 states no value for SRCERR after reset.  DESIGN CHOICE (notes/assumptions/2.md): zero. -/
def Config.resetSrcerr : Word32 := 0#32

/-- R250 states no value for SEED, ACC and TOTAL of a context after reset.  DESIGN CHOICE
(notes/assumptions/2.md): zero. -/
def Config.resetContextWord : Word32 := 0#32

/-- R250 states no value for the TAIL bytes of a context after reset.  DESIGN CHOICE (notes/assumptions/2.md):
zero. -/
def Config.resetContextByte : Byte := 0#8

end Sys2Proof
end

