-- ==== Sys2Proof/Syntax.lean ====
section
/-! DEFINITION. The syntax of the MM3 core: a transaction as it stands on the command port (R70) and the nine
commands (R78; spec/opcode_table.json), one constructor a row. -/

namespace Sys2Proof

/-- R70: a transaction is a triple `(CMD, OPD, Payload)`. -/
structure Transaction where
  /-- the 32-bit command word -/
  cmd : Word32
  /-- the 64-bit operand, always present -/
  opd : Word64
  /-- the payload bytes, in order (R53) -/
  payload : List Byte
  deriving DecidableEq, Repr

/-- R78: the nine commands, each with the fields its format gives it (R72 to R76) and the operands its transaction
carries.  OPD is kept whole, so that no bit of a transaction is lost; which of its bits a command reads (R22) is
said by the command's meaning. -/
inductive Instr where
  /-- ROTL32 (R104), format R32: rotate amount `CMD[4:0]`. -/
  | rotl32 (r : BitVec 5) (opd : Word64)
  /-- ROTL64 (R105), format R64: rotate amount `CMD[5:0]`. -/
  | rotl64 (r : BitVec 6) (opd : Word64)
  /-- FMIX32 (R106), format N. -/
  | fmix32 (opd : Word64)
  /-- FMIX64 (R107), format N. -/
  | fmix64 (opd : Word64)
  /-- S32_NEW (R135), format C: context `CMD[23:20]`. -/
  | s32New (ctx : BitVec 4) (opd : Word64)
  /-- S32_WRITE (R136), format CL: context `CMD[23:20]`; LEN is the number of payload bytes. -/
  | s32Write (ctx : BitVec 4) (opd : Word64) (payload : List Byte)
  /-- S32_FINAL (R137), format C: context `CMD[23:20]`. -/
  | s32Final (ctx : BitVec 4) (opd : Word64)
  /-- X86_128 (R170), format N. -/
  | x86Hash (opd : Word64)
  /-- X64_128 (R200), format N. -/
  | x64Hash (opd : Word64)
  deriving DecidableEq, Repr

/-- R78: a command's mnemonic, as the opcode map spells it. -/
def Instr.mnemonic : Instr → String
  | .rotl32 _ _ => "ROTL32"
  | .rotl64 _ _ => "ROTL64"
  | .fmix32 _ => "FMIX32"
  | .fmix64 _ => "FMIX64"
  | .s32New _ _ => "S32_NEW"
  | .s32Write _ _ _ => "S32_WRITE"
  | .s32Final _ _ => "S32_FINAL"
  | .x86Hash _ => "X86_128"
  | .x64Hash _ => "X64_128"

end Sys2Proof
end

