-- ==== Sys2Proof/WellFormed.lean ====
section
/-! DEFINITION. When a command is well formed: the extra conditions of the opcode map (R78) on its fields. -/

namespace Sys2Proof

/-- R78, column "extra condition": the rotate amount is not 0 (R73, R74), the context exists (R75, R76), and the
payload's length fits LEN (R76).  Every other field admits every value. -/
def Instr.wf (nCtx : Nat) : Instr → Bool
  | .rotl32 r _ => r != 0#5
  | .rotl64 r _ => r != 0#6
  | .fmix32 _ => true
  | .fmix64 _ => true
  | .s32New ctx _ => decide (ctx.toNat < nCtx)
  | .s32Write ctx _ payload => decide (ctx.toNat < nCtx) && decide (payload.length < Config.payloadLimit)
  | .s32Final ctx _ => decide (ctx.toNat < nCtx)
  | .x86Hash _ => true
  | .x64Hash _ => true

end Sys2Proof
end

