-- ==== Sys2Proof/Decode.lean ====
section
/-! DEFINITION. The decoder of R79, total on every command word and payload and rejecting by name, and after it the
encoder, both written from the formats of R72 to R76 and the opcode map of R78. -/

namespace Sys2Proof

/-! ## Fields of the command word (R71 to R77) -/

/-- R71: `OPC = CMD[31:24]`. -/
abbrev Transaction.opc (t : Transaction) : BitVec 8 := t.cmd.extractLsb' 24 8

/-- R77: `R = CMD[4:0]` for ROTL32. -/
abbrev Transaction.rot32 (t : Transaction) : BitVec 5 := t.cmd.extractLsb' 0 5

/-- R77: `R = CMD[5:0]` for ROTL64. -/
abbrev Transaction.rot64 (t : Transaction) : BitVec 6 := t.cmd.extractLsb' 0 6

/-- R77: `CTX = CMD[23:20]`. -/
abbrev Transaction.ctx (t : Transaction) : BitVec 4 := t.cmd.extractLsb' 20 4

/-- R77: `LEN = CMD[19:0]`. -/
abbrev Transaction.len (t : Transaction) : BitVec 20 := t.cmd.extractLsb' 0 20

/-! ## Opcodes and formats -/

/-- R78: the nine assigned opcodes. -/
inductive Opcode where
  | rotl32 | rotl64 | fmix32 | fmix64 | s32New | s32Write | s32Final | x86Hash | x64Hash
  deriving DecidableEq, Repr

/-- R72 to R76: the five formats. -/
inductive Format where
  | n | r32 | r64 | c | cl
  deriving DecidableEq, Repr

/-- R78: the value of OPC for each command. -/
def Opcode.byte : Opcode → BitVec 8
  | .rotl32 => 0x01#8
  | .rotl64 => 0x02#8
  | .fmix32 => 0x03#8
  | .fmix64 => 0x04#8
  | .s32New => 0x10#8
  | .s32Write => 0x11#8
  | .s32Final => 0x12#8
  | .x86Hash => 0x20#8
  | .x64Hash => 0x21#8

/-- R79, the case on OPC: every other value is unassigned. -/
def Opcode.ofByte (b : BitVec 8) : Option Opcode :=
  if b = 0x01#8 then some .rotl32
  else if b = 0x02#8 then some .rotl64
  else if b = 0x03#8 then some .fmix32
  else if b = 0x04#8 then some .fmix64
  else if b = 0x10#8 then some .s32New
  else if b = 0x11#8 then some .s32Write
  else if b = 0x12#8 then some .s32Final
  else if b = 0x20#8 then some .x86Hash
  else if b = 0x21#8 then some .x64Hash
  else none

/-- R79: the format of each opcode. -/
def Opcode.format : Opcode → Format
  | .rotl32 => .r32
  | .rotl64 => .r64
  | .fmix32 | .fmix64 | .x86Hash | .x64Hash => .n
  | .s32New | .s32Final => .c
  | .s32Write => .cl

/-- R72 to R76: the reserved bits of the format are all zero. -/
def Format.reservedClear (cmd : Word32) : Format → Bool
  | .n => cmd.extractLsb' 0 24 == 0#24
  | .r32 => cmd.extractLsb' 5 19 == 0#19
  | .r64 => cmd.extractLsb' 6 18 == 0#18
  | .c => cmd.extractLsb' 0 20 == 0#20
  | .cl => true

/-- R73, R74: the rotate amount of a rotate format is not 0. -/
def Format.rotateNonzero (t : Transaction) : Format → Bool
  | .r32 => t.rot32 != 0#5
  | .r64 => t.rot64 != 0#6
  | .n | .c | .cl => true

/-- R75, R76: the context of a context format exists. -/
def Format.ctxExists (nCtx : Nat) (t : Transaction) : Format → Bool
  | .c | .cl => decide (t.ctx.toNat < nCtx)
  | .n | .r32 | .r64 => true

/-- R53: S32_WRITE carries LEN bytes and every other command none. -/
def Format.payloadFits (t : Transaction) : Format → Bool
  | .cl => t.payload.length == t.len.toNat
  | .n | .r32 | .r64 | .c => t.payload.length == 0

/-! ## Decoding (R79) -/

/-- Why the decoder rejects a transaction.  Each reason raises the same outcome code, ILLEGAL (R80, R222), so which
one is given cannot be observed (R79); the names are the model's. -/
inductive DecodeError where
  /-- R80: OPC is none of the nine assigned values. -/
  | unassignedOpcode
  /-- R80: a reserved bit of the format is set. -/
  | reservedBits
  /-- R80: `R = 0` in ROTL32 or ROTL64. -/
  | zeroRotate
  /-- R80: `CTX ≥ N_CTX`. -/
  | noSuchContext
  /-- R80, R53: the payload's length does not match. -/
  | payloadLength
  deriving DecidableEq, Repr

/-- R79, "return the command of OPC", with its fields extracted as R77 says. -/
def Opcode.instr (t : Transaction) : Opcode → Instr
  | .rotl32 => .rotl32 t.rot32 t.opd
  | .rotl64 => .rotl64 t.rot64 t.opd
  | .fmix32 => .fmix32 t.opd
  | .fmix64 => .fmix64 t.opd
  | .s32New => .s32New t.ctx t.opd
  | .s32Write => .s32Write t.ctx t.opd t.payload
  | .s32Final => .s32Final t.ctx t.opd
  | .x86Hash => .x86Hash t.opd
  | .x64Hash => .x64Hash t.opd

/-- R79: the decoder.  It reads no state but the parameter `N_CTX`. -/
def decode (nCtx : Nat) (t : Transaction) : Except DecodeError Instr :=
  match Opcode.ofByte t.opc with
  | none => .error .unassignedOpcode
  | some op =>
    if !op.format.reservedClear t.cmd then .error .reservedBits
    else if !op.format.rotateNonzero t then .error .zeroRotate
    else if !op.format.ctxExists nCtx t then .error .noSuchContext
    else if !op.format.payloadFits t then .error .payloadLength
    else .ok (op.instr t)

/-! ## The opcode map as a table (R78) -/

/-- One row of R78's table: the command, its mnemonic, and the words it matches. -/
structure MapRow where
  op : Opcode
  mnemonic : String
  bits : Word32
  mask : Word32
  deriving DecidableEq, Repr

/-- R78: the opcode map, row by row; `bits` is the column "match". -/
def opcodeMap : List MapRow :=
  [ ⟨.rotl32, "ROTL32", 0x01000000#32, 0xFFFFFFE0#32⟩,
    ⟨.rotl64, "ROTL64", 0x02000000#32, 0xFFFFFFC0#32⟩,
    ⟨.fmix32, "FMIX32", 0x03000000#32, 0xFFFFFFFF#32⟩,
    ⟨.fmix64, "FMIX64", 0x04000000#32, 0xFFFFFFFF#32⟩,
    ⟨.s32New, "S32_NEW", 0x10000000#32, 0xFF0FFFFF#32⟩,
    ⟨.s32Write, "S32_WRITE", 0x11000000#32, 0xFF000000#32⟩,
    ⟨.s32Final, "S32_FINAL", 0x12000000#32, 0xFF0FFFFF#32⟩,
    ⟨.x86Hash, "X86_128", 0x20000000#32, 0xFFFFFFFF#32⟩,
    ⟨.x64Hash, "X64_128", 0x21000000#32, 0xFFFFFFFF#32⟩ ]

/-- R78, column "extra condition", with the condition on the payload that stands below the table. -/
def Opcode.condition (nCtx : Nat) (t : Transaction) : Opcode → Bool
  | .rotl32 => t.rot32 != 0#5 && t.payload.length == 0
  | .rotl64 => t.rot64 != 0#6 && t.payload.length == 0
  | .fmix32 | .fmix64 | .x86Hash | .x64Hash => t.payload.length == 0
  | .s32New | .s32Final => decide (t.ctx.toNat < nCtx) && t.payload.length == 0
  | .s32Write => decide (t.ctx.toNat < nCtx) && t.payload.length == t.len.toNat

/-- R78: "A word selects a command when `(CMD & mask) = match` and the extra condition holds." -/
def MapRow.selects (nCtx : Nat) (t : Transaction) (row : MapRow) : Bool :=
  t.cmd &&& row.mask == row.bits && row.op.condition nCtx t

/-! ## Encoding (R72 to R76) -/

/-- R71: a command word from OPC, bits 31:24, and the 24 bits its format lays out. -/
def commandWord (op : Opcode) (body : BitVec 24) : Word32 := op.byte ++ body

/-- R73: format R32, `R` in bits 4:0 below 19 reserved bits. -/
def bodyR32 (r : BitVec 5) : BitVec 24 := 0#19 ++ r

/-- R74: format R64, `R` in bits 5:0 below 18 reserved bits. -/
def bodyR64 (r : BitVec 6) : BitVec 24 := 0#18 ++ r

/-- R75, R76: formats C and CL, CTX in bits 23:20 above 20 bits that hold LEN (CL) or are reserved (C). -/
def bodyC (ctx : BitVec 4) (len : BitVec 20) : BitVec 24 := ctx ++ len

/-- The transaction of a command: the fields of its format, with the reserved bits zero (R72 to R76). -/
def encode : Instr → Transaction
  | .rotl32 r opd => ⟨commandWord .rotl32 (bodyR32 r), opd, []⟩
  | .rotl64 r opd => ⟨commandWord .rotl64 (bodyR64 r), opd, []⟩
  | .fmix32 opd => ⟨commandWord .fmix32 0#24, opd, []⟩
  | .fmix64 opd => ⟨commandWord .fmix64 0#24, opd, []⟩
  | .s32New ctx opd => ⟨commandWord .s32New (bodyC ctx 0#20), opd, []⟩
  | .s32Write ctx opd payload =>
    ⟨commandWord .s32Write (bodyC ctx (BitVec.ofNat 20 payload.length)), opd, payload⟩
  | .s32Final ctx opd => ⟨commandWord .s32Final (bodyC ctx 0#20), opd, []⟩
  | .x86Hash opd => ⟨commandWord .x86Hash 0#24, opd, []⟩
  | .x64Hash opd => ⟨commandWord .x64Hash 0#24, opd, []⟩

/-- The opcode of a command. -/
def Instr.opcode : Instr → Opcode
  | .rotl32 _ _ => .rotl32
  | .rotl64 _ _ => .rotl64
  | .fmix32 _ => .fmix32
  | .fmix64 _ => .fmix64
  | .s32New _ _ => .s32New
  | .s32Write _ _ _ => .s32Write
  | .s32Final _ _ => .s32Final
  | .x86Hash _ => .x86Hash
  | .x64Hash _ => .x64Hash

/-! ## Transactions from numbered bits -/

/-- R71: the number of payload bytes that follow CMD and OPD, told by OPC and LEN alone. -/
def Transaction.payloadBytes (cmd : Word32) : Nat :=
  if cmd.extractLsb' 24 8 = 0x11#8 then (cmd.extractLsb' 0 20).toNat else 0

/-- R71: the length of a whole transaction in bytes, `4 + 8 + LEN` for S32_WRITE and `4 + 8` for every other
command. -/
def Transaction.byteLength (cmd : Word32) : Nat := 4 + 8 + Transaction.payloadBytes cmd

/-- The transaction whose bits are `w`, numbered from CMD's bit 0: CMD is bits 31 to 0, OPD bits 95 to 32, payload
byte `j` bits `8 * j + 103` to `8 * j + 96`.  Bits from `nbits` up are 0, so a 32-bit row of the opcode table has OPD 0
and, for S32_WRITE, LEN zero bytes. -/
def Transaction.ofTableWord (nbits w : Nat) : Transaction :=
  let v := w % 2 ^ nbits
  let cmd := BitVec.ofNat 32 v
  { cmd := cmd
    opd := BitVec.ofNat 64 (v >>> 32)
    payload := (List.range (Transaction.payloadBytes cmd)).map fun j => BitVec.ofNat 8 (v >>> (96 + 8 * j)) }

/-- The command this model's decoder reads from the transaction whose bits are `w` (`none` where it raises
ILLEGAL), on a block with the default number of contexts (`Config.nCtx`). -/
def decodeTableWord (nbits w : Nat) : Option Instr :=
  match decode Config.nCtx (Transaction.ofTableWord nbits w) with
  | .ok i => some i
  | .error _ => none

end Sys2Proof
end

