-- ==== Sys2Proof/Machine/State.lean ====
section
/-! DEFINITION. The state of the MM3 core as plain data (spec 10_state.md, R20 to R35), and its value after reset
(70_reset_and_hazards.md, R250).  The block has no memory and no program counter (R23, R50); what the hosts and the
byte source send it stands in the state as lists the step reads (R20, R35). -/

namespace Sys2Proof.Machine

/-- R29: the three pending bytes `TAIL[0..2]` of a streaming context. -/
structure Tail where
  b0 : Byte
  b1 : Byte
  b2 : Byte
  deriving DecidableEq, Repr

/-- R29: one streaming context `ctx[c]`. -/
structure Context where
  /-- VALID, 1 bit: S32_NEW has initialised the context -/
  valid : Bool
  /-- SEED, 32 bits -/
  seed : Word32
  /-- ACC, 32 bits -/
  acc : Word32
  /-- TOTAL, 32 bits -/
  total : Word32
  /-- TAIL[0..2], 3 x 8 bits -/
  tail : Tail
  /-- TLEN, 2 bits -/
  tlen : BitVec 2
  deriving DecidableEq, Repr

/-- R31: the lanes `H1` to `H4` of the x86-128 engine. -/
structure X86Lanes where
  h1 : Word32
  h2 : Word32
  h3 : Word32
  h4 : Word32
  deriving DecidableEq, Repr

/-- R31: the lanes `H1` and `H2` of the x64-128 engine. -/
structure X64Lanes where
  h1 : Word64
  h2 : Word64
  deriving DecidableEq, Repr

/-- R31: the phase of a one-shot engine. -/
inductive Phase where
  /-- ABSORB: the engine reads its input -/
  | absorb
  /-- FINAL: the source has answered End -/
  | final
  deriving DecidableEq, Repr

/-- R31: the in-flight state of a one-shot engine with lanes `L`. -/
structure Engine (L : Type) where
  lanes : L
  /-- BUF, the bytes of the block being collected, in order -/
  buf : List Byte
  /-- NB, the number of bytes read so far, an unbounded natural number (R7) -/
  nb : Nat
  phase : Phase
  deriving DecidableEq, Repr

/-- R31, R34: the one-shot transaction in progress. -/
inductive InFlight where
  | x86 (e : Engine X86Lanes)
  | x64 (e : Engine X64Lanes)
  deriving DecidableEq, Repr

/-- R55: what the byte source answers to one SourceRead. -/
inductive Answer where
  /-- `Bytes(bs)`; with no bytes it is End (R55) -/
  | bytes (bs : List Byte)
  /-- `End`: no more bytes -/
  | eos
  /-- `Error(tok)` -/
  | error (tok : Word32)
  deriving DecidableEq, Repr

/-- The state of the block (R34) and of its two ports.

`res` to `ctxs` are R34's architectural state; `engine` is the in-flight state R34 adds during a one-shot
transaction.  `resWritten` and `srcerrWritten` hold R250's "unwritten": RES and SRCERR always have a value here,
and these bits say whether a host read may give it (R250, U7, U8).  `cmdPort`, `srcPort` and `resetLine` are the
free inputs of R20, R35 and R251: the transactions the hosts have issued and the block has not yet accepted, the
answers the source gives to the next SourceReads, and a reset that has arrived. -/
structure State where
  /-- RES has been written since reset (R250) -/
  resWritten : Bool
  /-- RES, 128 bits (R24) -/
  res : Word128
  /-- STATUS, 32 bits (R26) -/
  status : Word32
  /-- SRCERR has been written since reset (R250) -/
  srcerrWritten : Bool
  /-- SRCERR, 32 bits (R28) -/
  srcerr : Word32
  /-- the context file `ctx[0..N_CTX-1]` (R29); its length is `N_CTX` -/
  ctxs : List Context
  /-- the one-shot transaction held on a SourceRead, if any (R31, R58) -/
  engine : Option InFlight
  /-- the command port: transactions issued and not yet accepted, in the order of R62 -/
  cmdPort : List Transaction
  /-- the byte-source port: the answers to the next SourceReads, in order (R55) -/
  srcPort : List Answer
  /-- a reset has arrived and has not yet been taken (R251) -/
  resetLine : Bool
  deriving DecidableEq, Repr

/-- Why the machine stops.  No command and no step of the block stops it: every error of R220 is an outcome code of
a transaction that ends (R229).  The two reasons belong to the host's reads, where R250 says that a read of an
unwritten register "is a fault in the model". -/
inductive Fault where
  /-- Raised by a host read of RES before the first transaction that writes it (R250, U7).  Safe: the model stops
  where the hardware would give some unspecified value. -/
  | unwrittenRes
  /-- Raised by a host read of SRCERR before the first transaction that ends IOERR (R250, U8).  Safe, as above. -/
  | unwrittenSrcerr
  deriving DecidableEq, Repr

/-- Why the model gives no meaning to a command.  No arm of `exec` uses it: all nine commands have their meaning. -/
inductive Refusal where
  /-- Raised by `exec` for a command with no meaning in this model; no command is left so.  Safe: nothing is claimed
  of such a command. -/
  | notModelled (mnemonic : String)
  deriving DecidableEq, Repr

/-- R250: a context after reset.  VALID is 0; the other fields are unspecified and no rule reads them while
VALID = 0, so their values are the model's own (`Config`, notes/assumptions/2.md). -/
def Context.reset : Context :=
  { valid := false
    seed := Config.resetContextWord
    acc := Config.resetContextWord
    total := Config.resetContextWord
    tail := ⟨Config.resetContextByte, Config.resetContextByte, Config.resetContextByte⟩
    tlen := 0#2 }

/-- R250: the state after reset of a block with `n` contexts: STATUS 0, RES and SRCERR unwritten, every context
invalid, no transaction in progress.  Nothing stands on its ports. -/
def State.resetOf (n : Nat) : State :=
  { resWritten := false
    res := Config.resetRes
    status := 0#32
    srcerrWritten := false
    srcerr := Config.resetSrcerr
    ctxs := List.replicate n Context.reset
    engine := none
    cmdPort := []
    srcPort := []
    resetLine := false }

/-- R250: the state right after reset, with the default number of contexts. -/
def State.reset : State := State.resetOf Config.nCtx

end Sys2Proof.Machine
end

