-- ==== Sys2Proof/Machine/Flags.lean ====
section
/-! DEFINITION. The outcome codes and the STATUS register (spec 10_state.md, R26; 60_exceptions.md, R220).  The
block has no condition flags (R27): STATUS.CODE is all an instruction reports. -/

namespace Sys2Proof.Machine

/-- R26, R220: the outcome codes. -/
inductive Code where
  | ok | illegal | uninit | ioerr | protocol
  deriving DecidableEq, Repr

/-- R26: the values of STATUS.CODE; 5, 6 and 7 are reserved and never written. -/
def Code.bits : Code → BitVec 3
  | .ok => 0#3
  | .illegal => 1#3
  | .uninit => 2#3
  | .ioerr => 3#3
  | .protocol => 4#3

/-- `STATUS.CODE <- c` (R26): bits 2:0 are written and the reserved bits 31:3 keep their value, which is zero in
every state the block reaches. -/
def State.setCode (c : Code) (s : State) : State :=
  { s with status := s.status.extractLsb' 3 29 ++ c.bits }

/-- R26: STATUS.CODE, bits 2:0. -/
def State.code (s : State) : BitVec 3 := s.status.extractLsb' 0 3

/-- R26: what a host read of STATUS gives: CODE in bits 2:0, and bits 31:3 "read as zero". -/
def State.readStatus (s : State) : Word32 := s.code.setWidth 32

end Sys2Proof.Machine
end

