-- ==== Sys2Proof/Machine/Operands.lean ====
section
/-! DEFINITION. Operand assembly (spec 30_encoding.md, R77), byte order (20_memory.md, R54; 00_scope.md, R10) and
the placement of results in RES (10_state.md, R24, R25). -/

namespace Sys2Proof.Machine

/-! ## The operand of a transaction (R22, R77) -/

/-- R77: `X32 = OPD[31:0]`; `OPD[63:32]` is ignored (R22). -/
def opdX32 (opd : Word64) : Word32 := opd.extractLsb' 0 32

/-- R77: `X64 = OPD[63:0]`. -/
def opdX64 (opd : Word64) : Word64 := opd

/-- R77: `SEED = OPD[31:0]`; `OPD[63:32]` is ignored (R22). -/
def opdSeed (opd : Word64) : Word32 := opd.extractLsb' 0 32

/-! ## Words from bytes (R10, R54) -/

/-- R10: `LE32(b0, b1, b2, b3)`. -/
def le32 (b0 b1 b2 b3 : Byte) : Word32 :=
  b0.setWidth 32 ||| b1.setWidth 32 <<< 8 ||| b2.setWidth 32 <<< 16 ||| b3.setWidth 32 <<< 24

/-- R10: `LE64(b0, ..., b7)`. -/
def le64 (b0 b1 b2 b3 b4 b5 b6 b7 : Byte) : Word64 :=
  b0.setWidth 64 ||| b1.setWidth 64 <<< 8 ||| b2.setWidth 64 <<< 16 ||| b3.setWidth 64 <<< 24
    ||| b4.setWidth 64 <<< 32 ||| b5.setWidth 64 <<< 40 ||| b6.setWidth 64 <<< 48 ||| b7.setWidth 64 <<< 56

/-- The 32-bit word number `i` of a byte list, at byte offset `4 * i` (R54).  A byte the list does not have
contributes nothing, which is what the tail words of R163 say: byte `j` goes to bits `8 * (j mod 4) + 7` to
`8 * (j mod 4)` of word `j div 4`, and the bits no byte reaches are zero. -/
def word32At (bs : List Byte) (i : Nat) : Word32 :=
  le32 (bs.getD (4 * i) 0#8) (bs.getD (4 * i + 1) 0#8) (bs.getD (4 * i + 2) 0#8) (bs.getD (4 * i + 3) 0#8)

/-- The 64-bit word number `i` of a byte list, at byte offset `8 * i` (R54); the tail words of R193, as
`word32At` is those of R163. -/
def word64At (bs : List Byte) (i : Nat) : Word64 :=
  le64 (bs.getD (8 * i) 0#8) (bs.getD (8 * i + 1) 0#8) (bs.getD (8 * i + 2) 0#8) (bs.getD (8 * i + 3) 0#8)
    (bs.getD (8 * i + 4) 0#8) (bs.getD (8 * i + 5) 0#8) (bs.getD (8 * i + 6) 0#8) (bs.getD (8 * i + 7) 0#8)

/-! ## Results (R24, R25) -/

/-- R24: a 32-bit result in RES, `zext_128(v)`. -/
def resOf32 (v : Word32) : Word128 := v.setWidth 128

/-- R24: a 64-bit result in RES, `zext_128(v)`. -/
def resOf64 (v : Word64) : Word128 := v.setWidth 128

/-- R24: X86_128 leaves `{h4, h3, h2, h1}`. -/
def X86Lanes.toRes (l : X86Lanes) : Word128 := l.h4 ++ l.h3 ++ l.h2 ++ l.h1

/-- R24: X64_128 leaves `{h2, h1}`. -/
def X64Lanes.toRes (l : X64Lanes) : Word128 := l.h2 ++ l.h1

/-- R25: byte `i` of a 16-byte digest is `RES[8*i+7 : 8*i]`. -/
def resByte (res : Word128) (i : Nat) : Byte := res.extractLsb' (8 * i) 8

/-- R25: the 16 digest bytes, in order. -/
def digestBytes (res : Word128) : List Byte := (List.range 16).map (resByte res)

end Sys2Proof.Machine
end

