-- ==== Sys2Proof/Machine/Ops.lean ====
section
/-! DEFINITION. The named operations over the block's state: ending a transaction with an outcome code (spec
60_exceptions.md, R220, R221), writing RES and SRCERR, reaching a context, taking a reset (70_reset_and_hazards.md,
R251), and what a host and the source can do to the block (10_state.md, R20). -/

namespace Sys2Proof.Machine

/-! ## Ending a transaction

The block has no trap: an error "does not transfer control, save state, change a mode or mask anything" (R229), and
there is no return from one (R230).  Raising is ending the transaction with its code. -/

/-- R221: `raise C` ends the current transaction with `STATUS.CODE <- C` and writes nothing else. -/
def State.raise (c : Code) (s : State) : State := s.setCode c

/-- `RES <- v` (R24); from now on a host read of RES gives its value (R250). -/
def State.writeRes (v : Word128) (s : State) : State := { s with res := v, resWritten := true }

/-- `SRCERR <- tok` (R28); from now on a host read of SRCERR gives its value (R250). -/
def State.writeSrcerr (tok : Word32) (s : State) : State := { s with srcerr := tok, srcerrWritten := true }

/-- A command that produces a result completes: `RES <- v; STATUS.CODE <- OK` (R24, R220). -/
def State.respond (v : Word128) (s : State) : State := (s.writeRes v).setCode .ok

/-- R224: a transaction ends with IOERR: `SRCERR <- tok; raise IOERR`. -/
def State.raiseIoerr (tok : Word32) (s : State) : State := (s.writeSrcerr tok).raise .ioerr

/-! ## The context file (R29, R32) -/

/-- R29: `N_CTX`, the number of contexts the block holds. -/
def State.nCtx (s : State) : Nat := s.ctxs.length

/-- `ctx[c]`, or nothing when `c ≥ N_CTX` (R75). -/
def State.ctx? (s : State) (c : BitVec 4) : Option Context := s.ctxs[c.toNat]?

/-- `ctx[c] <- x`; no other context changes (R33). -/
def State.setCtx (c : BitVec 4) (x : Context) (s : State) : State := { s with ctxs := s.ctxs.set c.toNat x }

/-- `TAIL[j]`, `j` = 0, 1, 2 (R29). -/
def Tail.get (t : Tail) (j : Nat) : Byte := if j = 0 then t.b0 else if j = 1 then t.b1 else t.b2

/-- `TAIL[j] <- b`, `j` = 0, 1, 2 (R29). -/
def Tail.set (t : Tail) (j : Nat) (b : Byte) : Tail :=
  if j = 0 then { t with b0 := b } else if j = 1 then { t with b1 := b } else { t with b2 := b }

/-- `[0, 0, 0]` (R135, R136). -/
def Tail.zero : Tail := ⟨0#8, 0#8, 0#8⟩

/-! ## Reset (R250, R251) -/

/-- R251: a reset abandons the transaction in progress, if there is one, and gives the state of R250.  `N_CTX` is a
parameter and stays.  What the hosts have issued and the source will answer is not the block's (R35), so the ports
keep it (notes/assumptions/5.md). -/
def State.takeReset (s : State) : State :=
  { State.resetOf s.nCtx with cmdPort := s.cmdPort, srcPort := s.srcPort }

/-! ## What the outside does (R20)

The model's inputs.  None of them is a step of the block. -/

/-- A host issues a transaction; it takes its place behind those already issued (R62). -/
def State.issue (t : Transaction) (s : State) : State := { s with cmdPort := s.cmdPort ++ [t] }

/-- The source gives one more answer (R55). -/
def State.supply (a : Answer) (s : State) : State := { s with srcPort := s.srcPort ++ [a] }

/-- A reset arrives (R251). -/
def State.assertReset (s : State) : State := { s with resetLine := true }

/-- R24, R250: a host read of RES; before the first transaction that writes RES it is a fault (U7).  It changes
nothing (R60). -/
def State.readRes (s : State) : Except Fault Word128 :=
  if s.resWritten then .ok s.res else .error .unwrittenRes

/-- R28, R250: a host read of SRCERR; before the first transaction that ends IOERR it is a fault (U8).  It changes
nothing (R60). -/
def State.readSrcerr (s : State) : Except Fault Word32 :=
  if s.srcerrWritten then .ok s.srcerr else .error .unwrittenSrcerr

end Sys2Proof.Machine
end

