-- ==== Sys2Proof/Machine/Primitives.lean ====
section
/-! DEFINITION. The bit primitives and their four commands (spec 40_primitives.md): the rotate-left barrel, the
finishers fmix32 and fmix64, ROTL32, ROTL64, FMIX32 and FMIX64. -/

namespace Sys2Proof.Machine

/-! ## The functions -/

/-- R100: `rotl32(x, r) = (x << r) | (x >> (32 - r))`. -/
def rotl32 (x : Word32) (r : Nat) : Word32 := x <<< r ||| x >>> (32 - r)

/-- R101: `rotl64(x, r) = (x << r) | (x >> (64 - r))`. -/
def rotl64 (x : Word64) (r : Nat) : Word64 := x <<< r ||| x >>> (64 - r)

/-- One step `h <- h ^ (h >> s)` of the finishers (R102, R103). -/
def xorShift {w : Nat} (s : Nat) (h : BitVec w) : BitVec w := h ^^^ h >>> s

/-- R102: the five steps of fmix32, the first applied first. -/
def fmix32 (h : Word32) : Word32 :=
  let h := xorShift 16 h
  let h := h * 0x85ebca6b#32
  let h := xorShift 13 h
  let h := h * 0xc2b2ae35#32
  xorShift 16 h

/-- R103: the five steps of fmix64, the first applied first. -/
def fmix64 (k : Word64) : Word64 :=
  let k := xorShift 33 k
  let k := k * 0xff51afd7ed558ccd#64
  let k := xorShift 33 k
  let k := k * 0xc4ceb9fe1a85ec53#64
  xorShift 33 k

/-! ## The commands -/

/-- R104, ROTL32: `RES <- zext_128(rotl32(X32, R))`.  `R = 0` raises ILLEGAL; the decoder never gives it. -/
def execRotl32 (r : BitVec 5) (opd : Word64) (s : State) : Host.Outcome State Fault Refusal :=
  if r = 0#5 then .next (s.raise .illegal) else .next (s.respond (resOf32 (rotl32 (opdX32 opd) r.toNat)))

/-- R105, ROTL64: `RES <- zext_128(rotl64(X64, R))`.  `R = 0` raises ILLEGAL; the decoder never gives it. -/
def execRotl64 (r : BitVec 6) (opd : Word64) (s : State) : Host.Outcome State Fault Refusal :=
  if r = 0#6 then .next (s.raise .illegal) else .next (s.respond (resOf64 (rotl64 (opdX64 opd) r.toNat)))

/-- R106, FMIX32: `RES <- zext_128(fmix32(X32))`. -/
def execFmix32 (opd : Word64) (s : State) : Host.Outcome State Fault Refusal :=
  .next (s.respond (resOf32 (fmix32 (opdX32 opd))))

/-- R107, FMIX64: `RES <- zext_128(fmix64(X64))`. -/
def execFmix64 (opd : Word64) (s : State) : Host.Outcome State Fault Refusal :=
  .next (s.respond (resOf64 (fmix64 (opdX64 opd))))

end Sys2Proof.Machine
end

