-- ==== Sys2Proof/Machine/Stream32.lean ====
section
/-! DEFINITION. The streaming 32-bit accumulator (spec 41_stream32.md): its functions, and the commands S32_NEW,
S32_WRITE and S32_FINAL. -/

namespace Sys2Proof.Machine

/-! ## The functions -/

/-- R131: `kmix32s(k)`, with `c1` and `c2` of R130. -/
def kmix32s (k : Word32) : Word32 := rotl32 (k * 0xcc9e2d51#32) 15 * 0x1b873593#32

/-- R132: `s32_block(h, k)`, the block step. -/
def s32Block (h k : Word32) : Word32 := rotl32 (h ^^^ kmix32s k) 13 * 5#32 + 0xe6546b64#32

/-- R134: `tailword(c)`: byte `j` of the TLEN pending bytes at bits `8 * j + 7` to `8 * j`. -/
def Context.tailword (c : Context) : Word32 :=
  (List.range c.tlen.toNat).foldl (fun k j => k ||| (c.tail.get j).setWidth 32 <<< (8 * j)) 0#32

/-- R136, the body of the loop: one payload byte goes to the tail, or completes a block. -/
def Context.absorbByte (c : Context) (b : Byte) : Context :=
  if c.tlen.toNat < 3 then
    { c with tail := c.tail.set c.tlen.toNat b, tlen := c.tlen + 1#2 }
  else
    { c with acc := s32Block c.acc (le32 (c.tail.get 0) (c.tail.get 1) (c.tail.get 2) b), tail := Tail.zero, tlen := 0#2 }

/-- R136, the loop over the payload's bytes, in order. -/
def Context.absorb (c : Context) (payload : List Byte) : Context := payload.foldl Context.absorbByte c

/-- R136: the payload is absorbed, then `TOTAL <- TOTAL + LEN` on 32 bits (R133). -/
def Context.write (c : Context) (payload : List Byte) : Context :=
  let c := c.absorb payload
  { c with total := c.total + BitVec.ofNat 32 payload.length }

/-- R135: a context just initialised with a seed. -/
def Context.fresh (seed : Word32) : Context :=
  { valid := true, seed := seed, acc := seed, total := 0#32, tail := Tail.zero, tlen := 0#2 }

/-- R137: the digest S32_FINAL gives of a context. -/
def Context.digest (c : Context) : Word32 :=
  let h := c.acc
  let h := if 0 < c.tlen.toNat then h ^^^ kmix32s c.tailword else h
  let h := h ^^^ c.total
  fmix32 h

/-! ## The commands -/

/-- R135, S32_NEW: the context starts a new lifetime with SEED, whether or not it was valid (D11).  `CTX ≥ N_CTX`
raises ILLEGAL; the decoder never gives it. -/
def execS32New (ctx : BitVec 4) (opd : Word64) (s : State) : Host.Outcome State Fault Refusal :=
  match s.ctx? ctx with
  | none => .next (s.raise .illegal)
  | some _ => .next ((s.setCtx ctx (Context.fresh (opdSeed opd))).setCode .ok)

/-- R136, S32_WRITE: append the payload to a valid context; UNINIT when it is not valid.  OPD is ignored (R22).
`CTX ≥ N_CTX` and a payload longer than LEN can say raise ILLEGAL; the decoder never gives them. -/
def execS32Write (ctx : BitVec 4) (_opd : Word64) (payload : List Byte) (s : State) :
    Host.Outcome State Fault Refusal :=
  if Config.payloadLimit ≤ payload.length then .next (s.raise .illegal)
  else
    match s.ctx? ctx with
    | none => .next (s.raise .illegal)
    | some c =>
      if c.valid then .next ((s.setCtx ctx (c.write payload)).setCode .ok) else .next (s.raise .uninit)

/-- R137, S32_FINAL: the digest of a valid context in RES; UNINIT when it is not valid.  No context field is written
(R141).  OPD is ignored (R22).  `CTX ≥ N_CTX` raises ILLEGAL; the decoder never gives it. -/
def execS32Final (ctx : BitVec 4) (_opd : Word64) (s : State) : Host.Outcome State Fault Refusal :=
  match s.ctx? ctx with
  | none => .next (s.raise .illegal)
  | some c => if c.valid then .next (s.respond (resOf32 c.digest)) else .next (s.raise .uninit)

end Sys2Proof.Machine
end

