-- ==== Sys2Proof/Machine/Engine.lean ====
section
/-! DEFINITION. What the two one-shot engines share: the read loop of R170 and R200 over the byte-source port (spec
20_memory.md, R55 to R58), how a one-shot transaction is held on an unanswered SourceRead, and how it ends
(60_exceptions.md, R221, R224, R225).

One step runs an engine through every answer that stands on the source port.  If the loop is still waiting when
there is no further answer, the transaction is held: the in-flight state stands in the state, and the next step goes
on from it.  Only the order of these events is architectural (R259), and `readLoop_append` (Laws/Engine.lean) says
that it does not matter where among the answers a step ends. -/

namespace Sys2Proof.Machine

/-- What distinguishes one engine from the other: where its in-flight state stands, its block step on the 16 bytes
of a full BUF, and its tail step, finalization and placement in RES. -/
structure EngineKind (L : Type) where
  inFlight : Engine L → InFlight
  block : L → List Byte → L
  digest : Engine L → Word128

/-- R170, R200: an engine at the start of its transaction. -/
def Engine.start {L : Type} (lanes : L) : Engine L := { lanes := lanes, buf := [], nb := 0, phase := .absorb }

/-- R55: the size `n` of the SourceRead an engine waits on, `16 - len(BUF)`. -/
def Engine.request {L : Type} (e : Engine L) : Nat := Config.blockBytes - e.buf.length

/-- R170, R200, the arm `Bytes(bs)`: collect the bytes, count them, and process the block when BUF is full. -/
def Engine.take {L : Type} (block : L → List Byte → L) (e : Engine L) (bs : List Byte) : Engine L :=
  let buf := e.buf ++ bs
  let nb := e.nb + bs.length
  if buf.length = Config.blockBytes then { e with lanes := block e.lanes buf, buf := [], nb := nb }
  else { e with buf := buf, nb := nb }

/-- How the read loop leaves an engine. -/
inductive ReadEnd (L : Type) where
  /-- R58: the engine waits on a SourceRead that has not been answered -/
  | held (e : Engine L)
  /-- R55: the source answered End; the engine is in phase FINAL -/
  | ended (e : Engine L)
  /-- R224: the source answered Error(tok) -/
  | failed (tok : Word32)
  /-- R225: the source answered with more bytes than requested -/
  | overlong
  deriving DecidableEq, Repr

/-- R170, R200: the read loop, over the answers that stand on the port, and the answers it leaves there.  An empty
Bytes answer is End (R55).  After End, Error or an overlong answer no further answer is taken (R57). -/
def readLoop {L : Type} (block : L → List Byte → L) : Engine L → List Answer → ReadEnd L × List Answer
  | e, [] => (.held e, [])
  | e, .eos :: as => (.ended { e with phase := .final }, as)
  | _, .error tok :: as => (.failed tok, as)
  | e, .bytes bs :: as =>
    if bs = [] then (.ended { e with phase := .final }, as)
    else if e.request < bs.length then (.overlong, as)
    else readLoop block (e.take block bs) as

/-- R31: the in-flight state is cleared when the transaction ends. -/
def State.endEngine (s : State) : State := { s with engine := none }

/-- The transaction goes on waiting (R58): its in-flight state stands in the state. -/
def State.hold (f : InFlight) (s : State) : State := { s with engine := some f }

/-- The answers that are left on the source port. -/
def State.leaveAnswers (as : List Answer) (s : State) : State := { s with srcPort := as }

/-- R170, R200, after the loop: the tail step and the finalization, then `RES <- digest; STATUS.CODE <- OK`. -/
def State.finishEngine {L : Type} (k : EngineKind L) (e : Engine L) (s : State) : State :=
  s.endEngine.respond (k.digest e)

/-- R170, R200: run an engine through the answers on the source port.  An engine in phase FINAL has had its End
and only finishes; no step leaves one waiting in that phase. -/
def State.runEngine {L : Type} (k : EngineKind L) (e : Engine L) (s : State) : State :=
  match e.phase with
  | .final => s.finishEngine k e
  | .absorb =>
    let out := readLoop k.block e s.srcPort
    let s := s.leaveAnswers out.2
    match out.1 with
    | .held e' => s.hold (k.inFlight e')
    | .ended e' => s.finishEngine k e'
    | .failed tok => s.endEngine.raiseIoerr tok
    | .overlong => s.endEngine.raise .protocol

end Sys2Proof.Machine
end

