-- ==== Sys2Proof/Machine/X64.lean ====
section
/-! DEFINITION. The one-shot x64 128-bit engine (spec 43_x64_128.md; 90_conflicts.md C4) and its command X64_128. -/

namespace Sys2Proof.Machine

/-- R190: `c1`. -/
def x64C1 : Word64 := 0x87c37b91114253d5#64

/-- R190: `c2`. -/
def x64C2 : Word64 := 0x4cf5ad432745937f#64

/-- R191: `kmix64_1(k)`. -/
def kmix64a (k : Word64) : Word64 := rotl64 (k * x64C1) 31 * x64C2

/-- R191: `kmix64_2(k)`. -/
def kmix64b (k : Word64) : Word64 := rotl64 (k * x64C2) 33 * x64C1

/-- R192: `x64_block`; lane 2 adds the new lane 1. -/
def x64Block (l : X64Lanes) (k1 k2 : Word64) : X64Lanes :=
  let h1 := (rotl64 (l.h1 ^^^ kmix64a k1) 27 + l.h2) * 5#64 + 0x52dce729#64
  let h2 := (rotl64 (l.h2 ^^^ kmix64b k2) 31 + h1) * 5#64 + 0x38495ab5#64
  ⟨h1, h2⟩

/-- R192, R200: the block step on the 16 bytes of a full BUF. -/
def x64BlockBytes (l : X64Lanes) (bs : List Byte) : X64Lanes := x64Block l (word64At bs 0) (word64At bs 1)

/-- R193: `x64_tail`, with the words the tail's bytes reach. -/
def x64Tail (l : X64Lanes) (tail : List Byte) : X64Lanes :=
  let t := tail.length
  { h2 := if 8 < t then l.h2 ^^^ kmix64b (word64At tail 1) else l.h2
    h1 := if 0 < t then l.h1 ^^^ kmix64a (word64At tail 0) else l.h1 }

/-- R194, the fold that stands before and after the two fmix64. -/
def x64Fold (l : X64Lanes) : X64Lanes :=
  let h1 := l.h1 + l.h2
  ⟨h1, l.h2 + h1⟩

/-- R194: `x64_final`; the length is taken modulo `2 ^ 64` (D16). -/
def x64Final (l : X64Lanes) (nb : Nat) : X64Lanes :=
  let len := BitVec.ofNat 64 nb
  let l := X64Lanes.mk (l.h1 ^^^ len) (l.h2 ^^^ len)
  let l := x64Fold l
  let l := X64Lanes.mk (fmix64 l.h1) (fmix64 l.h2)
  x64Fold l

/-- R195: both lanes start at `zext_64(SEED)`. -/
def x64Start (seed : Word32) : X64Lanes := ⟨seed.setWidth 64, seed.setWidth 64⟩

/-- R200, after the loop: the tail step on BUF, then the finalization. -/
def x64Digest (e : Engine X64Lanes) : Word128 := (x64Final (x64Tail e.lanes e.buf) e.nb).toRes

/-- R200: the x64-128 engine. -/
def x64Kind : EngineKind X64Lanes := { inFlight := .x64, block := x64BlockBytes, digest := x64Digest }

/-- R200, X64_128: start the engine with SEED and run it. -/
def execX64Hash (opd : Word64) (s : State) : Host.Outcome State Fault Refusal :=
  .next (s.runEngine x64Kind (Engine.start (x64Start (opdSeed opd))))

end Sys2Proof.Machine
end

