-- ==== Sys2Proof/Machine/X86.lean ====
section
/-! DEFINITION. The one-shot x86 128-bit engine (spec 42_x86_128.md; 90_conflicts.md C1, C2, C3) and its command
X86_128. -/

namespace Sys2Proof.Machine

/-- R160: the four lanes. -/
inductive X86Lane where
  | l1 | l2 | l3 | l4
  deriving DecidableEq, Repr

/-- R161: `(i mod 4) + 1`, the lane after lane `i`. -/
def X86Lane.next : X86Lane → X86Lane
  | .l1 => .l2
  | .l2 => .l3
  | .l3 => .l4
  | .l4 => .l1

/-- R160: the multipliers `c1` to `c4`. -/
def X86Lane.c : X86Lane → Word32
  | .l1 => 0x239b961b#32
  | .l2 => 0xab0e9789#32
  | .l3 => 0x38b34ae5#32
  | .l4 => 0xa1e38b93#32

/-- R160: the k-rotations `r1` to `r4`. -/
def X86Lane.r : X86Lane → Nat
  | .l1 => 15
  | .l2 => 16
  | .l3 => 17
  | .l4 => 18

/-- R160: the lane rotations `s1` to `s4` (90_conflicts.md C1: 19, 17, 15, 13). -/
def X86Lane.s : X86Lane → Nat
  | .l1 => 19
  | .l2 => 17
  | .l3 => 15
  | .l4 => 13

/-- R160: the lane additive constants `n1` to `n4`. -/
def X86Lane.n : X86Lane → Word32
  | .l1 => 0x561ccd1b#32
  | .l2 => 0x0bcaa747#32
  | .l3 => 0x96cd1c35#32
  | .l4 => 0x32ac3b17#32

/-- R161: `kmix86(i, k)`. -/
def kmix86 (i : X86Lane) (k : Word32) : Word32 := rotl32 (k * i.c) i.r * i.next.c

/-- R162, the update of lane `i`: `h` is the lane, `k` the block's word, `other` the lane that is added. -/
def x86LaneStep (i : X86Lane) (h k other : Word32) : Word32 :=
  (rotl32 (h ^^^ kmix86 i k) i.s + other) * 5#32 + i.n

/-- R162: `x86_block`, the lanes updated in order; lane 4 adds the new lane 1. -/
def x86Block (l : X86Lanes) (k1 k2 k3 k4 : Word32) : X86Lanes :=
  let h1 := x86LaneStep .l1 l.h1 k1 l.h2
  let h2 := x86LaneStep .l2 l.h2 k2 l.h3
  let h3 := x86LaneStep .l3 l.h3 k3 l.h4
  let h4 := x86LaneStep .l4 l.h4 k4 h1
  ⟨h1, h2, h3, h4⟩

/-- R162, R170: the block step on the 16 bytes of a full BUF. -/
def x86BlockBytes (l : X86Lanes) (bs : List Byte) : X86Lanes :=
  x86Block l (word32At bs 0) (word32At bs 1) (word32At bs 2) (word32At bs 3)

/-- R163: `x86_tail`, with the words the tail's bytes reach. -/
def x86Tail (l : X86Lanes) (tail : List Byte) : X86Lanes :=
  let t := tail.length
  { h4 := if 12 < t then l.h4 ^^^ kmix86 .l4 (word32At tail 3) else l.h4
    h3 := if 8 < t then l.h3 ^^^ kmix86 .l3 (word32At tail 2) else l.h3
    h2 := if 4 < t then l.h2 ^^^ kmix86 .l2 (word32At tail 1) else l.h2
    h1 := if 0 < t then l.h1 ^^^ kmix86 .l1 (word32At tail 0) else l.h1 }

/-- R164, the fold that stands before and after the four fmix32. -/
def x86Fold (l : X86Lanes) : X86Lanes :=
  let h1 := l.h1 + l.h2
  let h1 := h1 + l.h3
  let h1 := h1 + l.h4
  ⟨h1, l.h2 + h1, l.h3 + h1, l.h4 + h1⟩

/-- R164: `x86_final`; the four fmix32 are independent (90_conflicts.md C2), and the length is taken modulo
`2 ^ 32` (D16). -/
def x86Final (l : X86Lanes) (nb : Nat) : X86Lanes :=
  let len := BitVec.ofNat 32 nb
  let l := X86Lanes.mk (l.h1 ^^^ len) (l.h2 ^^^ len) (l.h3 ^^^ len) (l.h4 ^^^ len)
  let l := x86Fold l
  let l := X86Lanes.mk (fmix32 l.h1) (fmix32 l.h2) (fmix32 l.h3) (fmix32 l.h4)
  x86Fold l

/-- R170: all four lanes start at the seed. -/
def x86Start (seed : Word32) : X86Lanes := ⟨seed, seed, seed, seed⟩

/-- R170, after the loop: the tail step on BUF, then the finalization. -/
def x86Digest (e : Engine X86Lanes) : Word128 := (x86Final (x86Tail e.lanes e.buf) e.nb).toRes

/-- R170: the x86-128 engine. -/
def x86Kind : EngineKind X86Lanes := { inFlight := .x86, block := x86BlockBytes, digest := x86Digest }

/-- R170, X86_128: start the engine with SEED and run it. -/
def execX86Hash (opd : Word64) (s : State) : Host.Outcome State Fault Refusal :=
  .next (s.runEngine x86Kind (Engine.start (x86Start (opdSeed opd))))

end Sys2Proof.Machine
end

