-- ==== Sys2Proof/Machine/Dispatch.lean ====
section
/-! DEFINITION. The meaning of each command: one arm per constructor of `Instr` (spec 30_encoding.md, R78). -/

namespace Sys2Proof.Machine

def exec (i : Instr) (s : State) : Host.Outcome State Fault Refusal :=
  match i with
  | .rotl32 r opd => Sys2Proof.Machine.execRotl32 r opd s
  | .rotl64 r opd => Sys2Proof.Machine.execRotl64 r opd s
  | .fmix32 opd => Sys2Proof.Machine.execFmix32 opd s
  | .fmix64 opd => Sys2Proof.Machine.execFmix64 opd s
  | .s32New ctx opd => Sys2Proof.Machine.execS32New ctx opd s
  | .s32Write ctx opd payload => Sys2Proof.Machine.execS32Write ctx opd payload s
  | .s32Final ctx opd => Sys2Proof.Machine.execS32Final ctx opd s
  | .x86Hash opd => Sys2Proof.Machine.execX86Hash opd s
  | .x64Hash opd => Sys2Proof.Machine.execX64Hash opd s

end Sys2Proof.Machine
end

