-- ==== Sys2Proof/Machine/Accept.lean ====
section
/-! DEFINITION. How the block takes what stands on its ports: accepting a transaction (spec 20_memory.md, R62;
30_encoding.md, R79), going on with a held one (R58), and what it asks of the source. -/

namespace Sys2Proof.Machine

/-- R62: the block accepts the next transaction of the command port.  The decoder runs first (R79); a transaction it
rejects ends with ILLEGAL and no other effect (R222), and any other is executed. -/
def State.accept (t : Transaction) (s : State) : Host.Outcome State Fault Refusal :=
  match decode s.nCtx t with
  | .ok i => exec i s
  | .error _ => .next (s.raise .illegal)

/-- R58: a held transaction goes on with the answers that have arrived; with none it stays as it is. -/
def State.resume (f : InFlight) (s : State) : State :=
  match f with
  | .x86 e => s.runEngine x86Kind e
  | .x64 e => s.runEngine x64Kind e

/-- The next transaction of the command port is taken off it. -/
def State.popCommand (s : State) : State := { s with cmdPort := s.cmdPort.tail }

/-- R55: the size of the SourceRead on which the block is held, if it is held. -/
def State.pendingRequest (s : State) : Option Nat :=
  match s.engine with
  | none => none
  | some (.x86 e) => some e.request
  | some (.x64 e) => some e.request

/-- The transaction `t` stands first on the command port of an idle block, so that the next step accepts it. -/
def State.offer (t : Transaction) (s : State) : State :=
  { s with resetLine := false, engine := none, cmdPort := t :: s.cmdPort }

end Sys2Proof.Machine
end

