-- ==== Sys2Proof/Machine/Step.lean ====
section
/-! DEFINITION. One step of the block (spec 20_memory.md, R58, R62; 60_exceptions.md, R238;
70_reset_and_hazards.md, R251), and how the host of this project places one transaction on its port. -/

namespace Sys2Proof.Machine

/-- One step.  A reset that has arrived is taken first (R251).  Otherwise a held transaction goes on, and while it is
held no other is accepted (R58).  Otherwise the next transaction is accepted and runs to its end, or until it is
held (R20, R62).  Otherwise the block is idle and its state persists (R238). -/
def step (s : State) : Host.Outcome State Fault Refusal :=
  if s.resetLine then .next s.takeReset
  else
    match s.engine with
    | some f => .next (s.resume f)
    | none =>
      match s.cmdPort with
      | [] => .next s
      | t :: _ => s.popCommand.accept t

/-- The transaction whose bits are `w` stands first on the command port, and the block is idle, so that the next
step accepts it. -/
def State.withFetchWord (s : State) (nbits w : Nat) : State := s.offer (Transaction.ofTableWord nbits w)

end Sys2Proof.Machine
end

