-- ==== Sys2Proof/Machine/Assembler.lean ====
section
/-! DEFINITION. The assembler (spec 30_encoding.md, R81) and its pseudo-instructions (R82): what one line stands for
as transactions, and how a line is read from its text.  The block itself sees transactions only. -/

namespace Sys2Proof.Machine

/-! ## Lines -/

/-- R81, R82: one line of assembly, with its operands as numbers and bytes. -/
inductive AsmLine where
  | rotl32 (r : Nat) (x : Word32)
  | rotl64 (r : Nat) (x : Word64)
  | fmix32 (x : Word32)
  | fmix64 (x : Word64)
  | s32New (c : Nat) (seed : Word32)
  /-- one S32_WRITE, or the consecutive ones a long payload expands to (R82) -/
  | s32Write (c : Nat) (bytes : List Byte)
  | s32Final (c : Nat)
  | x86Hash (seed : Word32)
  | x64Hash (seed : Word32)
  /-- pseudo-instruction (R82) -/
  | s32Hash (c : Nat) (seed : Word32) (bytes : List Byte)
  /-- pseudo-instruction (R82) -/
  | rotr32 (r : Nat) (x : Word32)
  /-- pseudo-instruction (R82) -/
  | rotr64 (r : Nat) (x : Word64)
  deriving DecidableEq, Repr

/-- R82: the longest payload of one S32_WRITE. -/
def maxPayload : Nat := Config.payloadLimit - 1

/-- Pieces of at most `n` bytes each, in order; `fuel` bounds the number of cuts.  DESIGN CHOICE
(notes/assumptions/19.md): every piece but the last has `n` bytes, where R82 says "at most". -/
def splitAtMost (n : Nat) : Nat → List Byte → List (List Byte)
  | 0, bs => [bs]
  | fuel + 1, bs => if bs.length ≤ n then [bs] else bs.take n :: splitAtMost n fuel (bs.drop n)

/-- R82: the payloads of the consecutive S32_WRITE commands a write of `bytes` expands to; one payload when it is
short enough, the empty payload included (R76).  The sizes of the pieces of a longer one are the model's choice
(notes/assumptions/19.md). -/
def splitPayload (bytes : List Byte) : List (List Byte) := splitAtMost maxPayload bytes.length bytes

/-- R81: the transaction of `S32_WRITE c, bytes`. -/
def asmWrite (c : Nat) (bytes : List Byte) : Transaction :=
  ⟨0x11000000#32 + BitVec.ofNat 32 c <<< 20 + BitVec.ofNat 32 bytes.length, 0#64, bytes⟩

/-- R81: the transaction of `S32_NEW c, seed`. -/
def asmNew (c : Nat) (seed : Word32) : Transaction := ⟨0x10000000#32 + BitVec.ofNat 32 c <<< 20, seed.setWidth 64, []⟩

/-- R81: the transaction of `S32_FINAL c`. -/
def asmFinal (c : Nat) : Transaction := ⟨0x12000000#32 + BitVec.ofNat 32 c <<< 20, 0#64, []⟩

/-- R81: the transaction of `ROTL32 r, x`. -/
def asmRotl32 (r : Nat) (x : Word32) : Transaction := ⟨0x01000000#32 + BitVec.ofNat 32 r, x.setWidth 64, []⟩

/-- R81: the transaction of `ROTL64 r, x`. -/
def asmRotl64 (r : Nat) (x : Word64) : Transaction := ⟨0x02000000#32 + BitVec.ofNat 32 r, x, []⟩

/-- R81, R82: the transactions of a line.  An OPD half the command ignores is written zero. -/
def assemble : AsmLine → List Transaction
  | .rotl32 r x => [asmRotl32 r x]
  | .rotl64 r x => [asmRotl64 r x]
  | .fmix32 x => [⟨0x03000000#32, x.setWidth 64, []⟩]
  | .fmix64 x => [⟨0x04000000#32, x, []⟩]
  | .s32New c seed => [asmNew c seed]
  | .s32Write c bytes => (splitPayload bytes).map (asmWrite c)
  | .s32Final c => [asmFinal c]
  | .x86Hash seed => [⟨0x20000000#32, seed.setWidth 64, []⟩]
  | .x64Hash seed => [⟨0x21000000#32, seed.setWidth 64, []⟩]
  | .s32Hash c seed bytes => asmNew c seed :: (splitPayload bytes).map (asmWrite c) ++ [asmFinal c]
  | .rotr32 r x => [asmRotl32 (32 - r) x]
  | .rotr64 r x => [asmRotl64 (64 - r) x]

/-! ## The text of a line (R81; notes/assumptions/8.md says what R81 leaves open) -/

/-- A blank of the text. -/
def isBlank (c : Char) : Bool := c.toNat == 32 || c.toNat == 9

/-- The text without the blanks at its two ends. -/
def trimBlanks (cs : List Char) : List Char := ((cs.dropWhile isBlank).reverse.dropWhile isBlank).reverse

/-- The value of a hexadecimal digit. -/
def hexDigit? (c : Char) : Option Nat :=
  let n := c.toNat
  if 48 ≤ n && n ≤ 57 then some (n - 48)
  else if 97 ≤ n && n ≤ 102 then some (n - 87)
  else if 65 ≤ n && n ≤ 70 then some (n - 55)
  else none

/-- The value of a run of digits in a base, if every character is a digit of that base. -/
def digits? (base : Nat) (cs : List Char) : Option Nat :=
  cs.foldl (fun acc c => do
    let v ← acc
    let d ← hexDigit? c
    if d < base then some (v * base + d) else none) (some 0)

/-- R81: a number, decimal or `0x` hexadecimal. -/
def number? (cs : List Char) : Option Nat :=
  match cs with
  | [] => none
  | '0' :: 'x' :: [] => none
  | '0' :: 'x' :: ds => digits? 16 ds
  | ds => digits? 10 ds

/-- A number below a bound. -/
def numberBelow? (bound : Nat) (cs : List Char) : Option Nat := do
  let v ← number? (trimBlanks cs)
  if v < bound then some v else none

/-- A rotate amount, 1 to `w - 1` (R73, R74). -/
def amount? (w : Nat) (cs : List Char) : Option Nat := do
  let v ← numberBelow? w cs
  if v = 0 then none else some v

/-- The text before the first comma, and what follows it if there is one. -/
def cutComma (cs : List Char) : List Char × Option (List Char) :=
  match cs.dropWhile (· != ',') with
  | [] => (cs, none)
  | _ :: rest => (cs.takeWhile (· != ','), some rest)

/-- The pieces between commas. -/
def commaPieces (cs : List Char) : List (List Char) :=
  cs.foldr (fun c acc => if c = ',' then [] :: acc else
    match acc with
    | [] => [[c]]
    | p :: ps => (c :: p) :: ps) [[]]

/-- The UTF-8 bytes of one character (R81). -/
def utf8Bytes (c : Char) : List Byte :=
  let n := c.toNat
  let low := fun k => BitVec.ofNat 8 (0x80 + n / 2 ^ (6 * k) % 64)
  if n < 0x80 then [BitVec.ofNat 8 n]
  else if n < 0x800 then [BitVec.ofNat 8 (0xC0 + n / 64), low 0]
  else if n < 0x10000 then [BitVec.ofNat 8 (0xE0 + n / 4096), low 1, low 0]
  else [BitVec.ofNat 8 (0xF0 + n / 262144), low 2, low 1, low 0]

/-- R81: a byte payload, a quoted string or a bracketed list of byte values. -/
def bytes? (cs : List Char) : Option (List Byte) :=
  match trimBlanks cs with
  | [] => none
  | first :: rest =>
    match rest.reverse with
    | [] => none
    | last :: revBody =>
      let body := revBody.reverse
      if first.toNat = 34 && last.toNat = 34 && body.all (·.toNat != 34) then some (body.flatMap utf8Bytes)
      else if first = '[' && last = ']' then
        if trimBlanks body = [] then some []
        else (commaPieces body).mapM fun p => (numberBelow? 256 p).map (BitVec.ofNat 8)
      else none

/-- A line with one operand. -/
def oneOperand? (rest : List Char) : Option (List Char) :=
  match cutComma rest with
  | (a, none) => some a
  | (_, some _) => none

/-- A line with two operands; the second may hold commas of its own. -/
def twoOperands? (rest : List Char) : Option (List Char × List Char) :=
  match cutComma rest with
  | (_, none) => none
  | (a, some b) => some (a, b)

/-- A 32-bit operand. -/
def word32? (cs : List Char) : Option Word32 := (numberBelow? (2 ^ 32) cs).map (BitVec.ofNat 32)

/-- A 64-bit operand. -/
def word64? (cs : List Char) : Option Word64 := (numberBelow? (2 ^ 64) cs).map (BitVec.ofNat 64)

/-- R81, R82: a line from its text: the mnemonic, a blank, and the operands with commas between them. -/
def parseLine (text : List Char) : Option AsmLine :=
  let text := trimBlanks text
  let name := String.ofList (text.takeWhile (!isBlank ·))
  let rest := text.dropWhile (!isBlank ·)
  if name = "ROTL32" then do
    let (r, x) ← twoOperands? rest
    return .rotl32 (← amount? 32 r) (← word32? x)
  else if name = "ROTL64" then do
    let (r, x) ← twoOperands? rest
    return .rotl64 (← amount? 64 r) (← word64? x)
  else if name = "FMIX32" then do return .fmix32 (← word32? (← oneOperand? rest))
  else if name = "FMIX64" then do return .fmix64 (← word64? (← oneOperand? rest))
  else if name = "S32_NEW" then do
    let (c, seed) ← twoOperands? rest
    return .s32New (← numberBelow? 16 c) (← word32? seed)
  else if name = "S32_WRITE" then do
    let (c, bytes) ← twoOperands? rest
    return .s32Write (← numberBelow? 16 c) (← bytes? bytes)
  else if name = "S32_FINAL" then do return .s32Final (← numberBelow? 16 (← oneOperand? rest))
  else if name = "X86_128" then do return .x86Hash (← word32? (← oneOperand? rest))
  else if name = "X64_128" then do return .x64Hash (← word32? (← oneOperand? rest))
  else if name = "S32_HASH" then do
    let (c, more) ← twoOperands? rest
    let (seed, bytes) ← twoOperands? more
    return .s32Hash (← numberBelow? 16 c) (← word32? seed) (← bytes? bytes)
  else if name = "ROTR32" then do
    let (r, x) ← twoOperands? rest
    return .rotr32 (← amount? 32 r) (← word32? x)
  else if name = "ROTR64" then do
    let (r, x) ← twoOperands? rest
    return .rotr64 (← amount? 64 r) (← word64? x)
  else none

/-- R81, R82: the transactions of a line of text. -/
def assembleText (text : String) : Option (List Transaction) := (parseLine text.toList).map assemble

end Sys2Proof.Machine
end

