-- ==== Sys2Proof/Machine/Digest.lean ====
section
/-! DEFINITION. The three digests as functions of a byte string and a seed (spec 41_stream32.md, R139;
42_x86_128.md, R165; 43_x64_128.md, R196).  The commands do not use them: that the commands compute them is what the
laws R139, R171 and R201 say. -/

namespace Sys2Proof.Machine

/-- R139: the fold of `s32_block` from a seed over the complete 4-byte words of `S`. -/
def streamAcc (S : List Byte) (seed : Word32) : Word32 :=
  (List.range (S.length / 4)).foldl (fun h i => s32Block h (word32At S i)) seed

/-- R139: the word of the `len(S) mod 4` bytes after the last complete 4-byte word of `S`. -/
def streamTailWord (S : List Byte) : Word32 :=
  (List.range (S.length % 4)).foldl (fun k j => k ||| (S.getD (4 * (S.length / 4) + j) 0#8).setWidth 32 <<< (8 * j)) 0#32

/-- R139: `hash32(S, seed)`. -/
def hash32 (S : List Byte) (seed : Word32) : Word32 :=
  let h := streamAcc S seed
  let h := if 0 < S.length % 4 then h ^^^ kmix32s (streamTailWord S) else h
  let h := h ^^^ BitVec.ofNat 32 S.length
  fmix32 h

/-- R139: the context that holds the stream `S` since an S32_NEW with `seed`; TAIL is zero from TLEN up (R30). -/
def contextOf (seed : Word32) (S : List Byte) : Context :=
  let tailByte := fun j => S.getD (4 * (S.length / 4) + j) 0#8
  { valid := true
    seed := seed
    acc := streamAcc S seed
    total := BitVec.ofNat 32 S.length
    tail := ⟨tailByte 0, tailByte 1, tailByte 2⟩
    tlen := BitVec.ofNat 2 (S.length % 4) }

/-- The complete 16-byte block number `i` of `S` (R165, R196). -/
def blockOf (S : List Byte) (i : Nat) : List Byte := (S.drop (16 * i)).take 16

/-- The last `len(S) mod 16` bytes of `S` (R165, R196). -/
def tailOf (S : List Byte) : List Byte := S.drop (16 * (S.length / 16))

/-- R165: `hash_x86_128(S, seed)`. -/
def hashX86 (S : List Byte) (seed : Word32) : Word128 :=
  let l := (List.range (S.length / 16)).foldl (fun l i => x86BlockBytes l (blockOf S i)) (x86Start seed)
  let l := x86Tail l (tailOf S)
  (x86Final l S.length).toRes

/-- R196: `hash_x64_128(S, seed)`. -/
def hashX64 (S : List Byte) (seed : Word32) : Word128 :=
  let l := (List.range (S.length / 16)).foldl (fun l i => x64BlockBytes l (blockOf S i)) (x64Start seed)
  let l := x64Tail l (tailOf S)
  (x64Final l S.length).toRes

end Sys2Proof.Machine
end

