-- ==== Sys2Proof/Safety.lean ====
section
/-! DEFINITION. The terms the statements use: the invariant of the block's states, the states it can reach, sequences
of commands, the stream of a context, the answers a source may give, and which states no host can tell apart. -/

namespace Sys2Proof

/-! ## Transactions and commands -/

/-- R80, R222: the transactions that have no meaning. -/
def Transaction.meaningless (nCtx : Nat) (t : Transaction) : Prop :=
  t.opc ∉ [0x01#8, 0x02#8, 0x03#8, 0x04#8, 0x10#8, 0x11#8, 0x12#8, 0x20#8, 0x21#8] ∨
  (t.opc ∈ [0x03#8, 0x04#8, 0x20#8, 0x21#8] ∧ t.cmd.extractLsb' 0 24 ≠ 0#24) ∨
  (t.opc = 0x01#8 ∧ t.cmd.extractLsb' 5 19 ≠ 0#19) ∨
  (t.opc = 0x02#8 ∧ t.cmd.extractLsb' 6 18 ≠ 0#18) ∨
  (t.opc ∈ [0x10#8, 0x12#8] ∧ t.cmd.extractLsb' 0 20 ≠ 0#20) ∨
  (t.opc = 0x01#8 ∧ t.cmd.extractLsb' 0 5 = 0#5) ∨
  (t.opc = 0x02#8 ∧ t.cmd.extractLsb' 0 6 = 0#6) ∨
  (t.opc ∈ [0x10#8, 0x11#8, 0x12#8] ∧ nCtx ≤ (t.cmd.extractLsb' 20 4).toNat) ∨
  (t.opc = 0x11#8 ∧ t.payload.length ≠ (t.cmd.extractLsb' 0 20).toNat) ∨
  (t.opc ≠ 0x11#8 ∧ t.payload ≠ [])

/-- The command is one of the two that read the byte source (R170, R200). -/
def Instr.readsSource : Instr → Bool
  | .x86Hash _ | .x64Hash _ => true
  | .rotl32 _ _ | .rotl64 _ _ | .fmix32 _ | .fmix64 _ | .s32New _ _ | .s32Write _ _ _ | .s32Final _ _ => false

/-- The context a command names (R32). -/
def Instr.context? : Instr → Option (BitVec 4)
  | .s32New c _ | .s32Write c _ _ | .s32Final c _ => some c
  | .rotl32 _ _ | .rotl64 _ _ | .fmix32 _ | .fmix64 _ | .x86Hash _ | .x64Hash _ => none

end Sys2Proof

namespace Sys2Proof.Machine

/-! ## The invariant -/

/-- R30: the tail bytes of a valid context from TLEN up are zero. -/
def Context.tidy (c : Context) : Prop :=
  c.valid = true → ∀ j, c.tlen.toNat ≤ j → j ≤ 2 → c.tail.get j = 0#8

/-- R31: an engine that waits is in phase ABSORB with 0 to 15 bytes in BUF, the bytes of NB beyond its complete
blocks. -/
def Engine.waiting {L : Type} (e : Engine L) : Prop :=
  e.phase = .absorb ∧ e.buf.length < 16 ∧ e.nb % 16 = e.buf.length

/-- R31, for either engine. -/
def InFlight.waiting : InFlight → Prop
  | .x86 e => e.waiting
  | .x64 e => e.waiting

/-- What holds of every state the block reaches. -/
structure State.Inv (s : State) : Prop where
  /-- R7: `N_CTX` is 1 to 16 -/
  contexts : 1 ≤ s.nCtx ∧ s.nCtx ≤ 16
  /-- R26: STATUS bits 31:3 read as zero -/
  reserved : s.status.extractLsb' 3 29 = 0#29
  /-- R26: CODE is 0 to 4; 5, 6 and 7 are never written -/
  code : s.code.toNat ≤ 4
  /-- R30 -/
  tidy : ∀ c ∈ s.ctxs, c.tidy
  /-- R31 -/
  held : ∀ f, s.engine = some f → f.waiting

/-- The states a block with `n` contexts reaches from reset, whatever the hosts issue, whatever the source answers
and whenever a reset arrives (R20, R35, R251). -/
inductive Reachable (n : Nat) : State → Prop where
  | reset : Reachable n (State.resetOf n)
  | step {s t : State} : Reachable n s → step s = .next t → Reachable n t
  | issue {s : State} (x : Transaction) : Reachable n s → Reachable n (s.issue x)
  | supply {s : State} (a : Answer) : Reachable n s → Reachable n (s.supply a)
  | assertReset {s : State} : Reachable n s → Reachable n s.assertReset

/-! ## Transactions about to be accepted -/

/-- The block is idle, no reset waits, and `t` is the next transaction of the command port. -/
def State.Ready (s : State) (t : Transaction) : Prop :=
  s.resetLine = false ∧ s.engine = none ∧ s.cmdPort.head? = some t

/-! ## Sequences of commands -/

/-- The commands one after the other, each on the state the one before it left. -/
def execAll : List Instr → State → Host.Outcome State Fault Refusal
  | [], s => .next s
  | i :: is, s =>
    match exec i s with
    | .next t => execAll is t
    | .fault r => .fault r
    | .refused r => .refused r

/-- R52: the seed and the stream of context `c` after one more command, given those before it. -/
def streamStep (c : BitVec 4) (st : Word32 × List Byte) : Instr → Word32 × List Byte
  | .s32New c' opd => if c' = c then (opdSeed opd, []) else st
  | .s32Write c' _ payload =>
    if c' = c ∧ payload.length < Config.payloadLimit then (st.1, st.2 ++ payload) else st
  | .rotl32 _ _ | .rotl64 _ _ | .fmix32 _ | .fmix64 _ | .s32Final _ _ | .x86Hash _ | .x64Hash _ => st

/-! ## Answers of the source -/

/-- R55: answers of these bytes, given to an engine with `k` bytes in BUF, each hold 1 to `n` bytes of a request of
`n`. -/
def fitsRequests : Nat → List (List Byte) → Bool
  | _, [] => true
  | k, bs :: rest =>
    decide (1 ≤ bs.length) && decide (bs.length ≤ 16 - k) && fitsRequests ((k + bs.length) % 16) rest

/-- R55: an answer that says there are no more bytes. -/
def Answer.isEnd : Answer → Bool
  | .eos => true
  | .bytes bs => bs.isEmpty
  | .error _ => false

/-- An answer after which a one-shot transaction reads nothing more (R57). -/
def Answer.isLast : Answer → Bool
  | .eos => true
  | .bytes bs => bs.isEmpty
  | .error _ => true

/-! ## What no host can tell apart -/

/-- R30, R250: two contexts whose difference no rule reads: both are invalid, or all their fields agree but the tail
bytes from TLEN up. -/
def Context.Alike (c d : Context) : Prop :=
  c.valid = d.valid ∧
  (c.valid = true → c.seed = d.seed ∧ c.acc = d.acc ∧ c.total = d.total ∧ c.tlen = d.tlen ∧
    ∀ j, j < c.tlen.toNat → c.tail.get j = d.tail.get j)

/-- Two states whose difference no host can observe: the value of an unwritten RES or SRCERR, and the fields of
contexts that no rule reads. -/
structure State.Alike (s t : State) : Prop where
  resWritten : s.resWritten = t.resWritten
  res : s.resWritten = true → s.res = t.res
  status : s.status = t.status
  srcerrWritten : s.srcerrWritten = t.srcerrWritten
  srcerr : s.srcerrWritten = true → s.srcerr = t.srcerr
  ctxs : List.Forall₂ Context.Alike s.ctxs t.ctxs
  engine : s.engine = t.engine
  cmdPort : s.cmdPort = t.cmdPort
  srcPort : s.srcPort = t.srcPort
  resetLine : s.resetLine = t.resetLine

/-- R258: every transaction the hosts have issued has ended, and none is held.  DESIGN CHOICE
(notes/assumptions/18.md), both left open by R258: a run with a reset that has arrived and is not yet taken has not
ended, and a transaction that a reset has abandoned, for which no code was written, no longer keeps a run from having
ended. -/
def State.quiescent (s : State) : Bool := s.cmdPort.isEmpty && s.engine.isNone && !s.resetLine

end Sys2Proof.Machine
end

