-- ==== Sys2Proof/Certificates/Slice0/Obligations.lean ====
section
/-! DEFINITION. The statements for the provers, in the order of the spec's files: encoding, the step, the primitives,
the streaming accumulator, the one-shot engines, and the state as a whole.  Each docstring names the rule or the
section it formalises, and the assumption-log entry where it rests on a choice of the model. -/

open Sys2Proof Sys2Proof.Machine

/-! ## Encoding (30_encoding.md) -/

/-- Section 6 of 30_encoding.md, R83: the spec's own encoding examples, written out as words, and its five illegal words,
each with one operand.  A sanity statement; the names of the rejections are the model's. -/
def Obligations.DecodedWordsOfTheSpec : Prop :=
  decode 2 ⟨0x0100000F, 0x0123456789ABCDEF, []⟩ = .ok (.rotl32 15 0x0123456789ABCDEF) ∧
  decode 2 ⟨0x0100000D, 0x0123456789ABCDEF, []⟩ = .ok (.rotl32 13 0x0123456789ABCDEF) ∧
  decode 2 ⟨0x0200001F, 0x0123456789ABCDEF, []⟩ = .ok (.rotl64 31 0x0123456789ABCDEF) ∧
  decode 2 ⟨0x02000021, 0x0123456789ABCDEF, []⟩ = .ok (.rotl64 33 0x0123456789ABCDEF) ∧
  decode 2 ⟨0x03000000, 0x0123456789ABCDEF, []⟩ = .ok (.fmix32 0x0123456789ABCDEF) ∧
  decode 2 ⟨0x04000000, 0x0123456789ABCDEF, []⟩ = .ok (.fmix64 0x0123456789ABCDEF) ∧
  decode 2 ⟨0x10000000, 0x0123456789ABCDEF, []⟩ = .ok (.s32New 0 0x0123456789ABCDEF) ∧
  decode 2 ⟨0x10100000, 0x0123456789ABCDEF, []⟩ = .ok (.s32New 1 0x0123456789ABCDEF) ∧
  decode 2 ⟨0x1100000D, 0x0123456789ABCDEF,
      [0x48, 0x65, 0x6c, 0x6c, 0x6f, 0x2c, 0x20, 0x77, 0x6f, 0x72, 0x6c, 0x64, 0x21]⟩ =
    .ok (.s32Write 0 0x0123456789ABCDEF
      [0x48, 0x65, 0x6c, 0x6c, 0x6f, 0x2c, 0x20, 0x77, 0x6f, 0x72, 0x6c, 0x64, 0x21]) ∧
  decode 2 ⟨0x12000000, 0x0123456789ABCDEF, []⟩ = .ok (.s32Final 0 0x0123456789ABCDEF) ∧
  decode 2 ⟨0x20000000, 0x0123456789ABCDEF, []⟩ = .ok (.x86Hash 0x0123456789ABCDEF) ∧
  decode 2 ⟨0x21000000, 0x0123456789ABCDEF, []⟩ = .ok (.x64Hash 0x0123456789ABCDEF) ∧
  decode 2 ⟨0x00000000, 0x0123456789ABCDEF, []⟩ = .error .unassignedOpcode ∧
  decode 2 ⟨0x01000000, 0x0123456789ABCDEF, []⟩ = .error .zeroRotate ∧
  decode 2 ⟨0x01000020, 0x0123456789ABCDEF, []⟩ = .error .reservedBits ∧
  decode 2 ⟨0x03000001, 0x0123456789ABCDEF, []⟩ = .error .reservedBits ∧
  decode 2 ⟨0x12000005, 0x0123456789ABCDEF, []⟩ = .error .reservedBits

/-- Sections 2 to 4: decoding the transaction of any well-formed command gives the command back, with every field at
every value its format admits. -/
def Obligations.DecodeOfEncode : Prop :=
  ∀ (nCtx : Nat) (i : Instr), i.wf nCtx = true → decode nCtx (encode i) = .ok i

/-- Sections 2 to 4: the decoder gives well-formed commands only, and each has one transaction, the one it was
decoded from: no bit of a transaction is dropped. -/
def Obligations.EncodeOfDecode : Prop :=
  ∀ (nCtx : Nat) (t : Transaction) (i : Instr),
    decode nCtx t = .ok i → i.wf nCtx = true ∧ encode i = t

/-- R71: the length of a whole transaction follows from OPC and LEN alone. -/
def Obligations.LengthFromCommandWord : Prop :=
  ∀ (nCtx : Nat) (t : Transaction) (i : Instr), decode nCtx t = .ok i →
    (t.opc = 0x11#8 → 4 + 8 + t.payload.length = 4 + 8 + (t.cmd.extractLsb' 0 20).toNat) ∧
    (t.opc ≠ 0x11#8 → 4 + 8 + t.payload.length = 4 + 8) ∧
    Transaction.byteLength t.cmd = 4 + 8 + t.payload.length

/-- R78: the opcode map, and that the decoder of R79 selects exactly the row whose match, mask and extra condition
the transaction meets. -/
def Obligations.DecodeFollowsOpcodeMap : Prop :=
  opcodeMap.map (fun row => (row.op.byte, row.mnemonic, row.op.format, row.bits, row.mask)) =
    [ (0x01#8, "ROTL32", .r32, 0x01000000#32, 0xFFFFFFE0#32),
      (0x02#8, "ROTL64", .r64, 0x02000000#32, 0xFFFFFFC0#32),
      (0x03#8, "FMIX32", .n, 0x03000000#32, 0xFFFFFFFF#32),
      (0x04#8, "FMIX64", .n, 0x04000000#32, 0xFFFFFFFF#32),
      (0x10#8, "S32_NEW", .c, 0x10000000#32, 0xFF0FFFFF#32),
      (0x11#8, "S32_WRITE", .cl, 0x11000000#32, 0xFF000000#32),
      (0x12#8, "S32_FINAL", .c, 0x12000000#32, 0xFF0FFFFF#32),
      (0x20#8, "X86_128", .n, 0x20000000#32, 0xFFFFFFFF#32),
      (0x21#8, "X64_128", .n, 0x21000000#32, 0xFFFFFFFF#32) ] ∧
  ∀ (nCtx : Nat) (t : Transaction), ∀ row ∈ opcodeMap,
    (∃ i, decode nCtx t = .ok i ∧ i.mnemonic = row.mnemonic) ↔
      (t.cmd &&& row.mask = row.bits ∧ row.op.condition nCtx t = true)

/-- R80, R222: the transactions with no meaning, each of which raises ILLEGAL with no effect except STATUS, and that
there are no others. -/
def Obligations.IllegalLeavesOnlyStatus : Prop :=
  (∀ (s : State) (t : Transaction), s.Ready t → t.meaningless s.nCtx →
    step s = .next { s with cmdPort := s.cmdPort.tail, status := s.status.extractLsb' 3 29 ++ 1#3 }) ∧
  (∀ (nCtx : Nat) (t : Transaction), ¬ t.meaningless nCtx → ∃ i, decode nCtx t = .ok i) ∧
  ((List.range 256).filter fun b => (Opcode.ofByte (BitVec.ofNat 8 b)).isNone).length = 247 ∧
  (∀ (nCtx : Nat) (t : Transaction), t.cmd = 0#32 → t.meaningless nCtx)

/-! ## The step (20_memory.md, 60_exceptions.md) -/

/-- R62 and section 2 of 30_encoding.md: an idle block runs the command its decoder reads from the next transaction of
the port, which leaves the port; and `withFetchWord` places one transaction there. -/
def Obligations.StepRunsTheDecodedCommand : Prop :=
  (∀ (s : State) (t : Transaction) (i : Instr), s.Ready t → decode s.nCtx t = .ok i →
    step s = exec i { s with cmdPort := s.cmdPort.tail }) ∧
  (∀ (s : State) (nbits w : Nat) (i : Instr), decode s.nCtx (Transaction.ofTableWord nbits w) = .ok i →
    step (s.withFetchWord nbits w) = exec i { s with resetLine := false, engine := none })

/-- R229, R230: no step of the block stops the machine; every error is the outcome code of a transaction that ends. -/
def Obligations.StepAlwaysGoesOn : Prop :=
  ∀ s : State, ∃ t, step s = .next t

/-- R58, R238: an idle block, on which no reset waits (notes/assumptions/18.md), keeps its state; so does one held on a SourceRead that has not been answered, whatever
stands on its command port. -/
def Obligations.IdleAndHeldPersist : Prop :=
  (∀ s : State, s.quiescent = true → step s = .next s) ∧
  (∀ (s : State) (f : InFlight), s.resetLine = false → s.engine = some f → f.waiting → s.srcPort = [] →
    step s = .next s)

/-- R62, R254: as many steps as there are transactions run the commands one after the other, each on the state the
one before it left. -/
def Obligations.CommandSequenceRuns : Prop :=
  ∀ (s : State) (is : List Instr) (rest : List Transaction),
    s.resetLine = false → s.engine = none → s.cmdPort = is.map encode ++ rest →
    (∀ i ∈ is, i.wf s.nCtx = true ∧ i.readsSource = false) →
    ∃ t, execAll is s = .next t ∧
      Host.Core.run Sys2Proof.core is.length s = .next { t with cmdPort := rest }

/-! ## The primitives (40_primitives.md) -/

/-- R104: ROTL32, with its exceptions and corner cases. -/
def Obligations.Rotl32Command : Prop :=
  (∀ (s : State) (t : Transaction), s.Ready t → t.opc = 0x01#8 →
    (t.cmd &&& 0xFFFFFFE0#32 = 0x01000000#32 ∧ t.cmd.extractLsb' 0 5 ≠ 0#5 ∧ t.payload = [] →
      step s = .next { s with
        cmdPort := s.cmdPort.tail, status := s.status.extractLsb' 3 29 ++ 0#3, resWritten := true,
        res := (rotl32 (t.opd.extractLsb' 0 32) (t.cmd.extractLsb' 0 5).toNat).setWidth 128 }) ∧
    (¬ (t.cmd &&& 0xFFFFFFE0#32 = 0x01000000#32 ∧ t.cmd.extractLsb' 0 5 ≠ 0#5 ∧ t.payload = []) →
      step s = .next { s with
        cmdPort := s.cmdPort.tail, status := s.status.extractLsb' 3 29 ++ 1#3 })) ∧
  (∀ r, 1 ≤ r → r ≤ 31 → rotl32 0#32 r = 0#32 ∧ rotl32 0xFFFFFFFF#32 r = 0xFFFFFFFF#32) ∧
  (∀ x, (rotl32 x 1).getLsbD 0 = x.getLsbD 31) ∧
  (∀ x, (rotl32 x 31).getLsbD 31 = x.getLsbD 0 ∧ rotl32 x 31 = x.rotateRight 1) ∧
  rotl32 0x12345678#32 15 = 0x2b3c091a#32

/-- R105: ROTL64, with its exceptions and corner cases. -/
def Obligations.Rotl64Command : Prop :=
  (∀ (s : State) (t : Transaction), s.Ready t → t.opc = 0x02#8 →
    (t.cmd &&& 0xFFFFFFC0#32 = 0x02000000#32 ∧ t.cmd.extractLsb' 0 6 ≠ 0#6 ∧ t.payload = [] →
      step s = .next { s with
        cmdPort := s.cmdPort.tail, status := s.status.extractLsb' 3 29 ++ 0#3, resWritten := true,
        res := (rotl64 t.opd (t.cmd.extractLsb' 0 6).toNat).setWidth 128 }) ∧
    (¬ (t.cmd &&& 0xFFFFFFC0#32 = 0x02000000#32 ∧ t.cmd.extractLsb' 0 6 ≠ 0#6 ∧ t.payload = []) →
      step s = .next { s with
        cmdPort := s.cmdPort.tail, status := s.status.extractLsb' 3 29 ++ 1#3 })) ∧
  (∀ r, 1 ≤ r → r ≤ 63 → rotl64 0#64 r = 0#64 ∧ rotl64 0xFFFFFFFFFFFFFFFF#64 r = 0xFFFFFFFFFFFFFFFF#64) ∧
  (∀ x, rotl64 x 63 = x.rotateRight 1) ∧
  (∀ x, rotl64 x 32 = x.extractLsb' 0 32 ++ x.extractLsb' 32 32) ∧
  rotl64 0x0123456789abcdef#64 31 = 0xc4d5e6f78091a2b3#64

/-- R106: FMIX32, with its exceptions and corner cases; the network is R102's. -/
def Obligations.Fmix32Command : Prop :=
  (∀ (s : State) (t : Transaction), s.Ready t → t.opc = 0x03#8 →
    (t.cmd &&& 0xFFFFFFFF#32 = 0x03000000#32 ∧ t.payload = [] →
      step s = .next { s with
        cmdPort := s.cmdPort.tail, status := s.status.extractLsb' 3 29 ++ 0#3, resWritten := true,
        res := (fmix32 (t.opd.extractLsb' 0 32)).setWidth 128 }) ∧
    (t.cmd.extractLsb' 0 24 ≠ 0#24 ∨ t.payload ≠ [] →
      step s = .next { s with
        cmdPort := s.cmdPort.tail, status := s.status.extractLsb' 3 29 ++ 1#3 })) ∧
  fmix32 0#32 = 0#32 ∧ Function.Bijective fmix32 ∧ fmix32 1#32 = 0x514e28b7#32

/-- R107: FMIX64, with its exceptions and corner cases; the network is R103's. -/
def Obligations.Fmix64Command : Prop :=
  (∀ (s : State) (t : Transaction), s.Ready t → t.opc = 0x04#8 →
    (t.cmd &&& 0xFFFFFFFF#32 = 0x04000000#32 ∧ t.payload = [] →
      step s = .next { s with
        cmdPort := s.cmdPort.tail, status := s.status.extractLsb' 3 29 ++ 0#3, resWritten := true,
        res := (fmix64 t.opd).setWidth 128 }) ∧
    (t.cmd.extractLsb' 0 24 ≠ 0#24 ∨ t.payload ≠ [] →
      step s = .next { s with
        cmdPort := s.cmdPort.tail, status := s.status.extractLsb' 3 29 ++ 1#3 })) ∧
  fmix64 0#64 = 0#64 ∧ Function.Bijective fmix64 ∧ fmix64 1#64 = 0xb456bcfc34c2cb2c#64

/-- R100, R101: bit `i` of a rotated word is bit `(i - r) mod W` of the word. -/
def Obligations.RotateMovesBits : Prop :=
  (∀ (x : Word32) (r i : Nat), 1 ≤ r → r ≤ 31 → i < 32 →
    (rotl32 x r).getLsbD i = x.getLsbD ((i + 32 - r) % 32)) ∧
  (∀ (x : Word64) (r i : Nat), 1 ≤ r → r ≤ 63 → i < 64 →
    (rotl64 x r).getLsbD i = x.getLsbD ((i + 64 - r) % 64))

/-- R109: the four consequences that help proofs. -/
def Obligations.PrimitiveLaws : Prop :=
  ((0x85ebca6b#32).toNat % 2 = 1 ∧ (0xc2b2ae35#32).toNat % 2 = 1 ∧
    (0xff51afd7ed558ccd#64).toNat % 2 = 1 ∧ (0xc4ceb9fe1a85ec53#64).toNat % 2 = 1 ∧
    ∀ (w : Nat) (m : BitVec w), m.toNat % 2 = 1 → Function.Bijective fun h : BitVec w => h * m) ∧
  (∀ w s : Nat, 1 ≤ s → Function.Bijective fun h : BitVec w => h ^^^ h >>> s) ∧
  (Function.Bijective fmix32 ∧ Function.Bijective fmix64 ∧ fmix32 0#32 = 0#32 ∧ fmix64 0#64 = 0#64) ∧
  (∀ (x : Word32) (a b : Nat), 1 ≤ a → 1 ≤ b → a + b ≤ 31 → rotl32 (rotl32 x a) b = rotl32 x (a + b)) ∧
  (∀ (x : Word64) (a b : Nat), 1 ≤ a → 1 ≤ b → a + b ≤ 63 → rotl64 (rotl64 x a) b = rotl64 x (a + b))

/-- Section 2 of 40_primitives.md, R24 and R137: what the commands whose result goes to RES leave unchanged.  RES itself is
unchanged too unless the command ends OK. -/
def Obligations.ResultCommandsFrame : Prop :=
  ∀ (i : Instr) (s t : State),
    (∃ r o, i = .rotl32 r o) ∨ (∃ r o, i = .rotl64 r o) ∨ (∃ o, i = .fmix32 o) ∨ (∃ o, i = .fmix64 o) ∨
      (∃ c o, i = .s32Final c o) →
    exec i s = .next t →
    t.srcerr = s.srcerr ∧ t.srcerrWritten = s.srcerrWritten ∧ t.ctxs = s.ctxs ∧ t.engine = s.engine ∧
    t.cmdPort = s.cmdPort ∧ t.srcPort = s.srcPort ∧ t.resetLine = s.resetLine ∧
    t.status.extractLsb' 3 29 = s.status.extractLsb' 3 29 ∧
    (t.code ≠ 0#3 → t.res = s.res ∧ t.resWritten = s.resWritten)

/-! ## The streaming accumulator (41_stream32.md) -/

/-- R135: S32_NEW, with its exceptions; a valid context is no exception (D11). -/
def Obligations.S32NewCommand : Prop :=
  ∀ (s : State) (t : Transaction), s.Ready t → t.opc = 0x10#8 →
    (t.cmd &&& 0xFF0FFFFF#32 = 0x10000000#32 ∧ (t.cmd.extractLsb' 20 4).toNat < s.nCtx ∧ t.payload = [] →
      step s = .next { s with
        cmdPort := s.cmdPort.tail, status := s.status.extractLsb' 3 29 ++ 0#3,
        ctxs := s.ctxs.set (t.cmd.extractLsb' 20 4).toNat
          { valid := true, seed := t.opd.extractLsb' 0 32, acc := t.opd.extractLsb' 0 32, total := 0#32,
            tail := ⟨0#8, 0#8, 0#8⟩, tlen := 0#2 } }) ∧
    (s.nCtx ≤ (t.cmd.extractLsb' 20 4).toNat ∨ t.cmd.extractLsb' 0 20 ≠ 0#20 ∨ t.payload ≠ [] →
      step s = .next { s with
        cmdPort := s.cmdPort.tail, status := s.status.extractLsb' 3 29 ++ 1#3 })

/-- R136: S32_WRITE, with its exceptions, its loop byte by byte, its corner cases and its example. -/
def Obligations.S32WriteCommand : Prop :=
  (∀ (s : State) (t : Transaction), s.Ready t → t.opc = 0x11#8 →
    (s.nCtx ≤ (t.cmd.extractLsb' 20 4).toNat ∨ t.payload.length ≠ (t.cmd.extractLsb' 0 20).toNat →
      step s = .next { s with
        cmdPort := s.cmdPort.tail, status := s.status.extractLsb' 3 29 ++ 1#3 }) ∧
    (t.payload.length = (t.cmd.extractLsb' 0 20).toNat →
      ∀ c, s.ctxs[(t.cmd.extractLsb' 20 4).toNat]? = some c →
        (c.valid = false → step s = .next { s with
          cmdPort := s.cmdPort.tail, status := s.status.extractLsb' 3 29 ++ 2#3 }) ∧
        (c.valid = true → step s = .next { s with
          cmdPort := s.cmdPort.tail, status := s.status.extractLsb' 3 29 ++ 0#3,
          ctxs := s.ctxs.set (t.cmd.extractLsb' 20 4).toNat
            { t.payload.foldl Context.absorbByte c with
              total := c.total + BitVec.ofNat 32 t.payload.length } }))) ∧
  (∀ (c : Context) (b : Byte),
    (c.tlen.toNat < 3 → c.absorbByte b = { c with tail := c.tail.set c.tlen.toNat b, tlen := c.tlen + 1#2 }) ∧
    (c.tlen.toNat = 3 → c.absorbByte b = { c with
      acc := s32Block c.acc (le32 c.tail.b0 c.tail.b1 c.tail.b2 b), tail := ⟨0#8, 0#8, 0#8⟩, tlen := 0#2 })) ∧
  (∀ c : Context, c.write [] = c) ∧
  (Context.write ⟨true, 0, 0, 0, ⟨0#8, 0#8, 0#8⟩, 0⟩
      [0x48, 0x65, 0x6c, 0x6c, 0x6f, 0x2c, 0x20, 0x77, 0x6f, 0x72, 0x6c, 0x64, 0x21]
    = ⟨true, 0, 0xa1590249, 13, ⟨0x21, 0, 0⟩, 1⟩)

/-- R137: S32_FINAL, with its exceptions, corner cases and its example; `tailword` is R134's. -/
def Obligations.S32FinalCommand : Prop :=
  (∀ (s : State) (t : Transaction), s.Ready t → t.opc = 0x12#8 →
    (s.nCtx ≤ (t.cmd.extractLsb' 20 4).toNat ∨ t.cmd.extractLsb' 0 20 ≠ 0#20 ∨ t.payload ≠ [] →
      step s = .next { s with
        cmdPort := s.cmdPort.tail, status := s.status.extractLsb' 3 29 ++ 1#3 }) ∧
    (t.cmd &&& 0xFF0FFFFF#32 = 0x12000000#32 ∧ t.payload = [] →
      ∀ c, s.ctxs[(t.cmd.extractLsb' 20 4).toNat]? = some c →
        (c.valid = false → step s = .next { s with
          cmdPort := s.cmdPort.tail, status := s.status.extractLsb' 3 29 ++ 2#3 }) ∧
        (c.valid = true → step s = .next { s with
          cmdPort := s.cmdPort.tail, status := s.status.extractLsb' 3 29 ++ 0#3, resWritten := true,
          res := (fmix32 ((if 0 < c.tlen.toNat then c.acc ^^^ kmix32s c.tailword else c.acc)
            ^^^ c.total)).setWidth 128 }))) ∧
  (∀ (c : Context) (j : Nat), j < 4 →
    c.tailword.extractLsb' (8 * j) 8 = if j < c.tlen.toNat then c.tail.get j else 0#8) ∧
  (∀ (c : Context), c.acc = 0#32 → c.total = 0#32 → c.tlen = 0#2 → c.digest = 0#32) ∧
  kmix32s 0#32 = 0#32 ∧
  Context.digest ⟨true, 0, 0xa1590249, 13, ⟨0x21, 0, 0⟩, 1⟩ = 0xc0363e43

/-- R138: absorbing byte by byte is the source's description: the pending bytes and the new ones are taken together,
every complete 4-byte group is absorbed once, in order, and the 0 to 3 bytes after the last are the tail.  (R30 gives
the premise on the tail bytes from TLEN up.) -/
def Obligations.TopUpEquivalence : Prop :=
  ∀ (c : Context) (payload : List Byte), c.valid = true → c.tidy →
    let all := (List.range c.tlen.toNat).map c.tail.get ++ payload
    c.absorb payload = { c with
      acc := (List.range (all.length / 4)).foldl (fun h i => s32Block h (word32At all i)) c.acc
      tail := ⟨all.getD (4 * (all.length / 4)) 0#8, all.getD (4 * (all.length / 4) + 1) 0#8,
        all.getD (4 * (all.length / 4) + 2) 0#8⟩
      tlen := BitVec.ofNat 2 (all.length % 4) }

/-- R139: after an S32_NEW on context `c` and any commands after it, on this context or on others, the context holds
the stream of R52, and S32_FINAL gives its hash32. -/
def Obligations.ContextHoldsItsStream : Prop :=
  ∀ (s s' : State) (c : BitVec 4) (opd : Word64) (is : List Instr), c.toNat < s.nCtx →
    execAll (.s32New c opd :: is) s = .next s' →
    let seed := (is.foldl (streamStep c) (opd.extractLsb' 0 32, [])).1
    let S := (is.foldl (streamStep c) (opd.extractLsb' 0 32, [])).2
    (∃ ctx, s'.ctxs[c.toNat]? = some ctx ∧ ctx.valid = true ∧ ctx.seed = seed ∧
      ctx.acc = (List.range (S.length / 4)).foldl (fun h i => s32Block h
        (le32 (S.getD (4 * i) 0#8) (S.getD (4 * i + 1) 0#8) (S.getD (4 * i + 2) 0#8) (S.getD (4 * i + 3) 0#8))) seed ∧
      ctx.tlen.toNat = S.length % 4 ∧
      (∀ j, j < ctx.tlen.toNat → ctx.tail.get j = S.getD (4 * (S.length / 4) + j) 0#8) ∧
      ctx.total.toNat = S.length % 2 ^ 32) ∧
    (∀ o, exec (.s32Final c o) s' = .next { s' with
      status := s'.status.extractLsb' 3 29 ++ 0#3, resWritten := true, res := (hash32 S seed).setWidth 128 })

/-- R140: two splits of one byte string into payloads leave the same RES, whatever the context held before; so
does one S32_WRITE of the whole string, where its length fits LEN. -/
def Obligations.ChunkingInvariance : Prop :=
  ∀ (s : State) (c : BitVec 4) (opd o : Word64) (ps qs : List (List Byte)), c.toNat < s.nCtx →
    (∀ p ∈ ps, p.length ≤ 2 ^ 20 - 1) → (∀ q ∈ qs, q.length ≤ 2 ^ 20 - 1) → ps.flatten = qs.flatten →
    ∃ t u,
      execAll (.s32New c opd :: ps.map (fun p => .s32Write c o p) ++ [.s32Final c o]) s = .next t ∧
      execAll (.s32New c opd :: qs.map (fun q => .s32Write c o q) ++ [.s32Final c o]) s = .next u ∧
      t.res = u.res ∧ t.resWritten = true ∧ t.code = 0#3 ∧ u.code = 0#3

/-- R141: S32_FINAL does not change the context, gives the same RES again, and a later S32_WRITE continues the
stream. -/
def Obligations.FinalizeRepeatable : Prop :=
  ∀ (s : State) (c : BitVec 4) (o : Word64),
    (∀ t, exec (.s32Final c o) s = .next t → t.ctxs = s.ctxs ∧ exec (.s32Final c o) t = .next t) ∧
    (∀ payload, execAll [.s32Final c o, .s32Write c o payload, .s32Final c o] s =
      execAll [.s32Write c o payload, .s32Final c o] s)

/-- R142: the tail test of S32_FINAL cannot be observed. -/
def Obligations.TailTestUnobservable : Prop :=
  (∀ c : Context, c.tlen = 0#2 → c.tailword = 0#32 ∧ ∀ h, h ^^^ kmix32s c.tailword = h) ∧
  (∀ c : Context, c.digest = fmix32 (c.acc ^^^ kmix32s c.tailword ^^^ c.total))

/-- R223: S32_WRITE and S32_FINAL on a context that has not received S32_NEW since reset raise UNINIT, which writes
STATUS only; and a context is valid exactly when it has received one. -/
def Obligations.UninitLeavesOnlyStatus : Prop :=
  (∀ (s : State) (c : BitVec 4) (o : Word64) (payload : List Byte) (ctx : Context),
    s.ctxs[c.toNat]? = some ctx → ctx.valid = false → payload.length ≤ 2 ^ 20 - 1 →
    exec (.s32Write c o payload) s = .next { s with status := s.status.extractLsb' 3 29 ++ 2#3 } ∧
    exec (.s32Final c o) s = .next { s with status := s.status.extractLsb' 3 29 ++ 2#3 }) ∧
  (∀ (n : Nat) (c : BitVec 4) (is : List Instr) (s' : State) (ctx : Context),
    execAll is (State.resetOf n) = .next s' → s'.ctxs[c.toNat]? = some ctx →
    (ctx.valid = true ↔ ∃ opd, Instr.s32New c opd ∈ is))

/-- Section 2 of 41_stream32.md and R33: what S32_NEW and S32_WRITE leave unchanged: everything but STATUS.CODE and the
context they name, of which S32_WRITE also keeps VALID and SEED. -/
def Obligations.ContextCommandsFrame : Prop :=
  ∀ (i : Instr) (c : BitVec 4) (s t : State),
    (∃ o, i = .s32New c o) ∨ (∃ o payload, i = .s32Write c o payload) →
    exec i s = .next t →
    t.res = s.res ∧ t.resWritten = s.resWritten ∧ t.srcerr = s.srcerr ∧ t.srcerrWritten = s.srcerrWritten ∧
    t.engine = s.engine ∧ t.cmdPort = s.cmdPort ∧ t.srcPort = s.srcPort ∧ t.resetLine = s.resetLine ∧
    t.status.extractLsb' 3 29 = s.status.extractLsb' 3 29 ∧
    t.nCtx = s.nCtx ∧ (∀ k, k ≠ c.toNat → t.ctxs[k]? = s.ctxs[k]?) ∧
    (t.code ≠ 0#3 → t.ctxs = s.ctxs) ∧
    (∀ o payload ctx, i = .s32Write c o payload → s.ctxs[c.toNat]? = some ctx →
      ∃ ctx', t.ctxs[c.toNat]? = some ctx' ∧ ctx'.valid = ctx.valid ∧ ctx'.seed = ctx.seed)

/-! ## The one-shot engines (42_x86_128.md, 43_x64_128.md) -/

/-- R170, with the model's source port (notes/assumptions/4.md, 6.md): X86_128: its encoding, its start, its read loop answer by answer, its end, its exceptions and its example.
The loop runs from one SourceRead to the next; one step of the model takes every answer there is, so that a step from
an answered SourceRead equals a step from the next one. -/
def Obligations.X86Command : Prop :=
  (∀ (s : State) (t : Transaction), s.Ready t → t.opc = 0x20#8 →
    (t.cmd &&& 0xFFFFFFFF#32 = 0x20000000#32 ∧ t.payload = [] →
      step s = step { s with
        cmdPort := s.cmdPort.tail,
        engine := some (.x86 ⟨⟨t.opd.extractLsb' 0 32, t.opd.extractLsb' 0 32, t.opd.extractLsb' 0 32, t.opd.extractLsb' 0 32⟩, [], 0, .absorb⟩) }) ∧
    (t.cmd.extractLsb' 0 24 ≠ 0#24 ∨ t.payload ≠ [] →
      step s = .next { s with cmdPort := s.cmdPort.tail, status := s.status.extractLsb' 3 29 ++ 1#3 })) ∧
  (∀ (s : State) (l : X86Lanes) (buf : List Byte) (nb : Nat) (rest : List Answer),
    s.resetLine = false → s.engine = some (.x86 ⟨l, buf, nb, .absorb⟩) → buf.length < 16 →
    s.pendingRequest = some (16 - buf.length) ∧
    (∀ tok, s.srcPort = .error tok :: rest → step s = .next { s with
      srcPort := rest, engine := none, srcerr := tok, srcerrWritten := true,
      status := s.status.extractLsb' 3 29 ++ 3#3 }) ∧
    (∀ bs, s.srcPort = .bytes bs :: rest → 16 - buf.length < bs.length → step s = .next { s with
      srcPort := rest, engine := none, status := s.status.extractLsb' 3 29 ++ 4#3 }) ∧
    (∀ bs, s.srcPort = .bytes bs :: rest → 1 ≤ bs.length → bs.length < 16 - buf.length → step s = step { s with
      srcPort := rest, engine := some (.x86 ⟨l, buf ++ bs, nb + bs.length, .absorb⟩) }) ∧
    (∀ bs, s.srcPort = .bytes bs :: rest → bs.length = 16 - buf.length → step s = step { s with
      srcPort := rest,
      engine := some (.x86 ⟨x86Block l (word32At (buf ++ bs) 0) (word32At (buf ++ bs) 1) (word32At (buf ++ bs) 2) (word32At (buf ++ bs) 3), [], nb + bs.length, .absorb⟩) }) ∧
    (∀ a, s.srcPort = a :: rest → a = .eos ∨ a = .bytes [] → step s = .next { s with
      srcPort := rest, engine := none, resWritten := true, res := (x86Final (x86Tail l buf) nb).toRes,
      status := s.status.extractLsb' 3 29 ++ 0#3 }) ∧
    (s.srcPort = [] → step s = .next s)) ∧
  (x86Final (x86Tail ⟨0, 0, 0, 0⟩ []) 0).toRes = 0#128 ∧
  (let hello : List Byte := [0x48, 0x65, 0x6c, 0x6c, 0x6f, 0x2c, 0x20, 0x77, 0x6f, 0x72, 0x6c, 0x64, 0x21];
    word32At hello 0 = 0x6c6c6548 ∧ word32At hello 1 = 0x77202c6f ∧ word32At hello 2 = 0x646c726f ∧
    word32At hello 3 = 0x00000021 ∧
    x86Tail ⟨0, 0, 0, 0⟩ hello = ⟨0x1eef14a7, 0x709c089b, 0x58482592, 0x82396dc1⟩ ∧
    (x86Final (x86Tail ⟨0, 0, 0, 0⟩ hello) 13).toRes = 0x0afdd4c3402b4263f0638dfc26acdba7#128 ∧
    digestBytes 0x0afdd4c3402b4263f0638dfc26acdba7#128 =
      [0xA7, 0xDB, 0xAC, 0x26, 0xFC, 0x8D, 0x63, 0xF0, 0x63, 0x42, 0x2B, 0x40, 0xC3, 0xD4, 0xFD, 0x0A])

/-- R200, with the model's source port (notes/assumptions/4.md, 6.md): X64_128: its encoding, its start, its read loop answer by answer, its end, its exceptions and its example.
The loop runs from one SourceRead to the next; one step of the model takes every answer there is, so that a step from
an answered SourceRead equals a step from the next one. -/
def Obligations.X64Command : Prop :=
  (∀ (s : State) (t : Transaction), s.Ready t → t.opc = 0x21#8 →
    (t.cmd &&& 0xFFFFFFFF#32 = 0x21000000#32 ∧ t.payload = [] →
      step s = step { s with
        cmdPort := s.cmdPort.tail,
        engine := some (.x64 ⟨⟨(t.opd.extractLsb' 0 32).setWidth 64, (t.opd.extractLsb' 0 32).setWidth 64⟩, [], 0, .absorb⟩) }) ∧
    (t.cmd.extractLsb' 0 24 ≠ 0#24 ∨ t.payload ≠ [] →
      step s = .next { s with cmdPort := s.cmdPort.tail, status := s.status.extractLsb' 3 29 ++ 1#3 })) ∧
  (∀ (s : State) (l : X64Lanes) (buf : List Byte) (nb : Nat) (rest : List Answer),
    s.resetLine = false → s.engine = some (.x64 ⟨l, buf, nb, .absorb⟩) → buf.length < 16 →
    s.pendingRequest = some (16 - buf.length) ∧
    (∀ tok, s.srcPort = .error tok :: rest → step s = .next { s with
      srcPort := rest, engine := none, srcerr := tok, srcerrWritten := true,
      status := s.status.extractLsb' 3 29 ++ 3#3 }) ∧
    (∀ bs, s.srcPort = .bytes bs :: rest → 16 - buf.length < bs.length → step s = .next { s with
      srcPort := rest, engine := none, status := s.status.extractLsb' 3 29 ++ 4#3 }) ∧
    (∀ bs, s.srcPort = .bytes bs :: rest → 1 ≤ bs.length → bs.length < 16 - buf.length → step s = step { s with
      srcPort := rest, engine := some (.x64 ⟨l, buf ++ bs, nb + bs.length, .absorb⟩) }) ∧
    (∀ bs, s.srcPort = .bytes bs :: rest → bs.length = 16 - buf.length → step s = step { s with
      srcPort := rest,
      engine := some (.x64 ⟨x64Block l (word64At (buf ++ bs) 0) (word64At (buf ++ bs) 1), [], nb + bs.length, .absorb⟩) }) ∧
    (∀ a, s.srcPort = a :: rest → a = .eos ∨ a = .bytes [] → step s = .next { s with
      srcPort := rest, engine := none, resWritten := true, res := (x64Final (x64Tail l buf) nb).toRes,
      status := s.status.extractLsb' 3 29 ++ 0#3 }) ∧
    (s.srcPort = [] → step s = .next s)) ∧
  (x64Final (x64Tail ⟨0, 0⟩ []) 0).toRes = 0#128 ∧
  (∀ (l : X64Lanes) (tail : List Byte),
    (1 ≤ tail.length → tail.length ≤ 8 → x64Tail l tail = ⟨l.h1 ^^^ kmix64a (word64At tail 0), l.h2⟩) ∧
    (9 ≤ tail.length → tail.length ≤ 15 →
      x64Tail l tail = ⟨l.h1 ^^^ kmix64a (word64At tail 0), l.h2 ^^^ kmix64b (word64At tail 1)⟩)) ∧
  (let hello : List Byte := [0x48, 0x65, 0x6c, 0x6c, 0x6f, 0x2c, 0x20, 0x77, 0x6f, 0x72, 0x6c, 0x64, 0x21];
    word64At hello 0 = 0x77202c6f6c6c6548 ∧ word64At hello 1 = 0x00000021646c726f ∧
    x64Tail ⟨0, 0⟩ hello = ⟨0x855b899adee33158, 0x428590eafe92a4df⟩ ∧
    (x64Final (x64Tail ⟨0, 0⟩ hello) 13).toRes = 0x2c326650a8f3c564f1512dd1d2d665df#128 ∧
    digestBytes 0x2c326650a8f3c564f1512dd1d2d665df#128 =
      [0xDF, 0x65, 0xD6, 0xD2, 0xD1, 0x2D, 0x51, 0xF1, 0x64, 0xC5, 0xF3, 0xA8, 0x50, 0x66, 0x32, 0x2C])

/-- R171: X86_128, answered with the bytes of `S` in pieces that fit the requests and then End, leaves
`hash_x86_128(S, SEED)` in RES.  That End is taken off the source port and later answers stay there is the model's
(notes/assumptions/4.md, 6.md); the length of 2^32 bytes or more follows D16 (notes/assumptions/10.md). -/
def Obligations.X86DigestOfInput : Prop :=
  ∀ (s : State) (opd : Word64) (bss : List (List Byte)) (a : Answer) (rest : List Answer),
    fitsRequests 0 bss = true → a.isEnd = true → s.srcPort = bss.map .bytes ++ a :: rest →
    exec (.x86Hash opd) s = .next { s with
      res := hashX86 bss.flatten (opd.extractLsb' 0 32), resWritten := true,
      status := s.status.extractLsb' 3 29 ++ 0#3, engine := none, srcPort := rest }

/-- R201: X64_128, as R171 for X86_128, leaves `hash_x64_128(S, SEED)`.  The source port is the model's
(notes/assumptions/4.md, 6.md), and the length of 2^64 bytes or more follows D16 (notes/assumptions/10.md). -/
def Obligations.X64DigestOfInput : Prop :=
  ∀ (s : State) (opd : Word64) (bss : List (List Byte)) (a : Answer) (rest : List Answer),
    fitsRequests 0 bss = true → a.isEnd = true → s.srcPort = bss.map .bytes ++ a :: rest →
    exec (.x64Hash opd) s = .next { s with
      res := hashX64 bss.flatten (opd.extractLsb' 0 32), resWritten := true,
      status := s.status.extractLsb' 3 29 ++ 0#3, engine := none, srcPort := rest }

/-- R178: the digest does not depend on how the source splits its answers. -/
def Obligations.SplitIndependence : Prop :=
  ∀ (s : State) (opd : Word64) (bss css : List (List Byte)) (rest : List Answer),
    fitsRequests 0 bss = true → fitsRequests 0 css = true → bss.flatten = css.flatten →
    exec (.x86Hash opd) { s with srcPort := bss.map .bytes ++ .eos :: rest } =
      exec (.x86Hash opd) { s with srcPort := css.map .bytes ++ .eos :: rest } ∧
    exec (.x64Hash opd) { s with srcPort := bss.map .bytes ++ .eos :: rest } =
      exec (.x64Hash opd) { s with srcPort := css.map .bytes ++ .eos :: rest }

/-- R173: a one-shot transaction that ends with IOERR or PROTOCOL has no effect except STATUS.CODE, and SRCERR for
IOERR; the bytes read before are lost.  The same for X64_128 (R203).  That Error is taken
off the source port and later answers stay there is the model's (notes/assumptions/4.md, 6.md); what an overlong answer
leaves on the port is not stated. -/
def Obligations.FailedOneShotHasNoEffect : Prop :=
  ∀ (s : State) (i : Instr) (bss : List (List Byte)) (rest : List Answer),
    i.readsSource = true → fitsRequests 0 bss = true →
    (∀ tok, s.srcPort = bss.map .bytes ++ .error tok :: rest → exec i s = .next { s with
      status := s.status.extractLsb' 3 29 ++ 3#3, srcerr := tok, srcerrWritten := true, engine := none,
      srcPort := rest }) ∧
    (∀ bs, 16 - bss.flatten.length % 16 < bs.length → s.srcPort = bss.map .bytes ++ .bytes bs :: rest →
      ∃ left, exec i s = .next { s with
        status := s.status.extractLsb' 3 29 ++ 4#3, engine := none, srcPort := left })

/-- R55, R58: after the answers so far, a one-shot transaction is held on a request for `16 - len(BUF)` bytes; nothing a
host can read has changed, and the block accepts no other transaction. -/
def Obligations.HeldOnTheNextRequest : Prop :=
  ∀ (s : State) (i : Instr) (bss : List (List Byte)),
    i.readsSource = true → fitsRequests 0 bss = true → s.srcPort = bss.map .bytes → s.resetLine = false →
    ∃ t, exec i s = .next t ∧ t.pendingRequest = some (16 - bss.flatten.length % 16) ∧
      t = { s with engine := t.engine, srcPort := [] } ∧ step t = .next t

/-- R58, R259: it does not matter when the answers arrive.  If the transaction ends with the answers `as`, then with
`bs` behind them it ends in the same state, `bs` left on the port; if it is held, then going on with `bs` later is the
same as having had both at once. -/
def Obligations.HeldTransactionResumes : Prop :=
  (∀ (s t : State) (f : InFlight) (as bs : List Answer), s.resetLine = false → s.engine = some f → f.waiting →
    step { s with srcPort := as } = .next t →
    (t.engine = none → step { s with srcPort := as ++ bs } = .next { t with srcPort := t.srcPort ++ bs }) ∧
    (t.engine ≠ none → t.srcPort = [] ∧ step { s with srcPort := as ++ bs } = step { t with srcPort := bs })) ∧
  (∀ (s t : State) (i : Instr) (as bs : List Answer), s.resetLine = false → i.readsSource = true →
    exec i { s with srcPort := as } = .next t →
    (t.engine = none → exec i { s with srcPort := as ++ bs } = .next { t with srcPort := t.srcPort ++ bs }) ∧
    (t.engine ≠ none → t.srcPort = [] ∧ exec i { s with srcPort := as ++ bs } = step { t with srcPort := bs }))

/-- R233: the read loop ends when the source answers End or Error. -/
def Obligations.EngineEndsWithItsSource : Prop :=
  ∀ (s : State) (f : InFlight) (a : Answer), s.resetLine = false → s.engine = some f → a ∈ s.srcPort →
    a.isLast = true → ∃ t, step s = .next t ∧ t.engine = none

/-- R172, R193: mixing every tail word, whether or not the tail reaches it, gives the same lanes, because every k-mix
maps 0 to 0. -/
def Obligations.ZeroTailWordsMixToNothing : Prop :=
  (∀ i, kmix86 i 0#32 = 0#32) ∧ kmix64a 0#64 = 0#64 ∧ kmix64b 0#64 = 0#64 ∧
  (∀ (l : X86Lanes) (tail : List Byte), x86Tail l tail =
    ⟨l.h1 ^^^ kmix86 .l1 (word32At tail 0), l.h2 ^^^ kmix86 .l2 (word32At tail 1),
      l.h3 ^^^ kmix86 .l3 (word32At tail 2), l.h4 ^^^ kmix86 .l4 (word32At tail 3)⟩) ∧
  (∀ (l : X64Lanes) (tail : List Byte), x64Tail l tail =
    ⟨l.h1 ^^^ kmix64a (word64At tail 0), l.h2 ^^^ kmix64b (word64At tail 1)⟩)

/-- R54, R163, R193: byte `j` of a word of a byte list stands at bits `8 * j + 7` to `8 * j`, and a byte the list
does not have leaves its bits zero. -/
def Obligations.LittleEndianWords : Prop :=
  (∀ (bs : List Byte) (i j : Nat), j < 4 → (word32At bs i).extractLsb' (8 * j) 8 = bs.getD (4 * i + j) 0#8) ∧
  (∀ (bs : List Byte) (i j : Nat), j < 8 → (word64At bs i).extractLsb' (8 * j) 8 = bs.getD (8 * i + j) 0#8)

/-- R25, R202: the order of the digest bytes in RES, and RES as one little-endian integer. -/
def Obligations.DigestByteOrder : Prop :=
  (∀ (res : Word128) (i : Nat), i < 16 → (digestBytes res)[i]? = some (res.extractLsb' (8 * i) 8)) ∧
  (∀ l : X86Lanes, digestBytes l.toRes =
    [l.h1, l.h2, l.h3, l.h4].flatMap fun h => (List.range 4).map fun j => h.extractLsb' (8 * j) 8) ∧
  (∀ l : X64Lanes, digestBytes l.toRes =
    [l.h1, l.h2].flatMap fun h => (List.range 8).map fun j => h.extractLsb' (8 * j) 8) ∧
  (∀ res : Word128, (digestBytes res).foldr (fun b n => b.toNat + 256 * n) 0 = res.toNat) ∧
  (∀ l : X64Lanes, l.toRes.extractLsb' 0 64 = l.h1 ∧ l.toRes.extractLsb' 64 64 = l.h2)

/-- Section 2 of 42_x86_128.md and of 43_x64_128.md, R33: what X86_128 and X64_128 leave unchanged, when they start and when
they go on after a hold.  RES is written only when they end OK, SRCERR only when they end IOERR, and while they are
held nothing but the engine and the source port changes. -/
def Obligations.OneShotFrame : Prop :=
  ∀ (s t : State), (∃ i : Instr, i.readsSource = true ∧ exec i s = .next t) ∨
      (∃ f, s.engine = some f ∧ t = s.resume f) →
    t.ctxs = s.ctxs ∧ t.cmdPort = s.cmdPort ∧ t.resetLine = s.resetLine ∧ t.srcPort <:+ s.srcPort ∧
    t.status.extractLsb' 3 29 = s.status.extractLsb' 3 29 ∧
    (t.engine ≠ none → t.status = s.status) ∧
    (t.engine ≠ none ∨ t.code ≠ 0#3 → t.res = s.res ∧ t.resWritten = s.resWritten) ∧
    (t.engine ≠ none ∨ t.code ≠ 3#3 → t.srcerr = s.srcerr ∧ t.srcerrWritten = s.srcerrWritten)

/-! ## Outcomes (60_exceptions.md) -/

/-- R226: where each command ends OK. -/
def Obligations.CommandsCompleteOk : Prop :=
  (∀ (s : State) (r : BitVec 5) (opd : Word64), r ≠ 0#5 → exec (.rotl32 r opd) s = .next { s with
    status := s.status.extractLsb' 3 29 ++ 0#3, resWritten := true,
    res := (rotl32 (opd.extractLsb' 0 32) r.toNat).setWidth 128 }) ∧
  (∀ (s : State) (r : BitVec 6) (opd : Word64), r ≠ 0#6 → exec (.rotl64 r opd) s = .next { s with
    status := s.status.extractLsb' 3 29 ++ 0#3, resWritten := true, res := (rotl64 opd r.toNat).setWidth 128 }) ∧
  (∀ (s : State) (opd : Word64), exec (.fmix32 opd) s = .next { s with
    status := s.status.extractLsb' 3 29 ++ 0#3, resWritten := true,
    res := (fmix32 (opd.extractLsb' 0 32)).setWidth 128 }) ∧
  (∀ (s : State) (opd : Word64), exec (.fmix64 opd) s = .next { s with
    status := s.status.extractLsb' 3 29 ++ 0#3, resWritten := true, res := (fmix64 opd).setWidth 128 }) ∧
  (∀ (s : State) (c : BitVec 4) (opd : Word64), c.toNat < s.nCtx → exec (.s32New c opd) s = .next { s with
    status := s.status.extractLsb' 3 29 ++ 0#3,
    ctxs := s.ctxs.set c.toNat ⟨true, opd.extractLsb' 0 32, opd.extractLsb' 0 32, 0#32, ⟨0#8, 0#8, 0#8⟩, 0#2⟩ }) ∧
  (∀ (s : State) (c : BitVec 4) (opd : Word64) (payload : List Byte) (ctx : Context),
    s.ctxs[c.toNat]? = some ctx → ctx.valid = true → payload.length ≤ 2 ^ 20 - 1 →
    exec (.s32Write c opd payload) s = .next { s with
      status := s.status.extractLsb' 3 29 ++ 0#3, ctxs := s.ctxs.set c.toNat (ctx.write payload) }) ∧
  (∀ (s : State) (c : BitVec 4) (opd : Word64) (ctx : Context),
    s.ctxs[c.toNat]? = some ctx → ctx.valid = true → exec (.s32Final c opd) s = .next { s with
      status := s.status.extractLsb' 3 29 ++ 0#3, resWritten := true, res := ctx.digest.setWidth 128 }) ∧
  (∀ (s : State) (i : Instr) (bss : List (List Byte)) (a : Answer) (rest : List Answer), i.readsSource = true →
    fitsRequests 0 bss = true → a.isEnd = true → s.srcPort = bss.map .bytes ++ a :: rest →
    ∃ t, exec i s = .next t ∧ t.code = 0#3 ∧ t.engine = none ∧ t.resWritten = true)

/-- R227: ILLEGAL comes before UNINIT, and UNINIT before what the source answers; of the source's answers the first that
offends decides, whatever follows it. -/
def Obligations.ErrorPriority : Prop :=
  (∀ (s : State) (t : Transaction) (why : DecodeError), s.Ready t → decode s.nCtx t = .error why →
    ∃ u, step s = .next u ∧ u.code = 1#3) ∧
  (∀ (s : State) (t : Transaction) (i : Instr) (c : BitVec 4) (ctx : Context), s.Ready t →
    decode s.nCtx t = .ok i → (∃ o payload, i = .s32Write c o payload) ∨ (∃ o, i = .s32Final c o) →
    s.ctxs[c.toNat]? = some ctx → ctx.valid = false → ∃ u, step s = .next u ∧ u.code = 2#3) ∧
  (∀ (s : State) (t : Transaction) (i : Instr) (bss : List (List Byte)) (rest : List Answer), s.Ready t →
    decode s.nCtx t = .ok i → i.readsSource = true → fitsRequests 0 bss = true →
    (∀ tok, s.srcPort = bss.map .bytes ++ .error tok :: rest → ∃ u, step s = .next u ∧ u.code = 3#3) ∧
    (∀ bs, 16 - bss.flatten.length % 16 < bs.length → s.srcPort = bss.map .bytes ++ .bytes bs :: rest →
      ∃ u, step s = .next u ∧ u.code = 4#3))

/-- R221, R229: a transaction that does not end OK leaves RES, every context and SRCERR (except on IOERR) as they
were; and while a transaction is held nothing of them, nor STATUS, has changed. -/
def Obligations.FailureLeavesStateAsBefore : Prop :=
  ∀ (s t : State), s.resetLine = false → step s = .next t → s.engine ≠ none ∨ s.cmdPort ≠ [] →
    (t.engine = none → t.code ≠ 0#3 →
      t.res = s.res ∧ t.resWritten = s.resWritten ∧ t.ctxs = s.ctxs ∧
      (t.code ≠ 3#3 → t.srcerr = s.srcerr ∧ t.srcerrWritten = s.srcerrWritten)) ∧
    (t.engine ≠ none →
      t.res = s.res ∧ t.resWritten = s.resWritten ∧ t.ctxs = s.ctxs ∧ t.srcerr = s.srcerr ∧
      t.srcerrWritten = s.srcerrWritten ∧ t.status = s.status)

/-- Section 1 of 60_exceptions.md, R220: the outcome codes each command can end with, once decoded. -/
def Obligations.OutcomeCodesOfCommands : Prop :=
  ∀ (i : Instr) (s t : State), i.wf s.nCtx = true → exec i s = .next t →
    match i with
    | .rotl32 _ _ | .rotl64 _ _ | .fmix32 _ | .fmix64 _ | .s32New _ _ => t.code = 0#3
    | .s32Write _ _ _ | .s32Final _ _ => t.code = 0#3 ∨ t.code = 2#3
    | .x86Hash _ | .x64Hash _ => t.engine = none → t.code = 0#3 ∨ t.code = 3#3 ∨ t.code = 4#3

/-- R22: which bits of OPD each command reads. -/
def Obligations.OperandBitsIgnored : Prop :=
  (∀ (s : State) (o o' : Word64), o.extractLsb' 0 32 = o'.extractLsb' 0 32 →
    (∀ r, exec (.rotl32 r o) s = exec (.rotl32 r o') s) ∧
    exec (.fmix32 o) s = exec (.fmix32 o') s ∧
    (∀ c, exec (.s32New c o) s = exec (.s32New c o') s) ∧
    exec (.x86Hash o) s = exec (.x86Hash o') s ∧
    exec (.x64Hash o) s = exec (.x64Hash o') s) ∧
  (∀ (s : State) (o o' : Word64) (c : BitVec 4) (payload : List Byte),
    exec (.s32Write c o payload) s = exec (.s32Write c o' payload) s ∧
    exec (.s32Final c o) s = exec (.s32Final c o') s) ∧
  (∀ (s t : State) (o o' : Word64),
    (exec (.fmix64 o) s = .next t → exec (.fmix64 o') s = .next t → o = o') ∧
    (∀ r, r ≠ 0#6 → exec (.rotl64 r o) s = .next t → exec (.rotl64 r o') s = .next t → o = o'))

/-! ## The state as a whole (10_state.md, 70_reset_and_hazards.md) -/

/-- R250: the state after reset, for every number of contexts.  (The values behind an unwritten register and an
invalid context are the model's, notes/assumptions/2.md; this states none of them.) -/
def Obligations.ResetStateOfTheSpec : Prop :=
  ∀ n, 1 ≤ n → n ≤ 16 →
    (State.resetOf n).readRes = .error .unwrittenRes ∧
    (State.resetOf n).readSrcerr = .error .unwrittenSrcerr ∧
    (State.resetOf n).status = 0#32 ∧ (State.resetOf n).readStatus = 0#32 ∧
    (State.resetOf n).nCtx = n ∧ (∀ c ∈ (State.resetOf n).ctxs, c.valid = false) ∧
    (State.resetOf n).engine = none ∧ State.reset = State.resetOf 1

/-- The invariant holds after reset, for every number of contexts R7 allows. -/
def Obligations.InvariantAtReset : Prop :=
  State.reset.Inv ∧ ∀ n, 1 ≤ n → n ≤ 16 → (State.resetOf n).Inv

/-- The invariant is kept by every step: N_CTX stays 1 to 16 (R7), the reserved bits of STATUS stay zero and CODE at most 4
(R26), the unused tail bytes of valid contexts stay zero (R30), and a held engine is in phase ABSORB with 0 to 15 bytes
in BUF (R31). -/
def Obligations.InvariantKeptByStep : Prop :=
  ∀ s t : State, s.Inv → step s = .next t → t.Inv

/-- R30: the context invariants in every state reachable from reset, and that no rule reads the tail bytes from TLEN
up: they change no later digest. -/
def Obligations.ContextInvariants : Prop :=
  (∀ (n : Nat) (s : State), Reachable n s → ∀ c ∈ s.ctxs,
    c.tlen.toNat < 4 ∧ (c.valid = true → ∀ j, c.tlen.toNat ≤ j → j ≤ 2 → c.tail.get j = 0#8)) ∧
  (∀ (c d : Context) (payload : List Byte), d = { c with tail := d.tail } →
    (∀ j, j < c.tlen.toNat → d.tail.get j = c.tail.get j) →
    (d.write payload).digest = (c.write payload).digest)

/-- R33: contexts are independent.  A command writes no other context than the one it names; it reads no other, so
changing the others changes nothing else of what it does; the primitives and the one-shot engines touch none. -/
def Obligations.ContextIndependence : Prop :=
  (∀ (i : Instr) (s t : State) (k : Nat), exec i s = .next t → (∀ c, i.context? = some c → c.toNat ≠ k) →
    t.ctxs[k]? = s.ctxs[k]?) ∧
  (∀ (i : Instr) (s t : State) (cs : List Context), cs.length = s.ctxs.length →
    (∀ c, i.context? = some c → cs[c.toNat]? = s.ctxs[c.toNat]?) → exec i s = .next t →
    ∃ t', exec i { s with ctxs := cs } = .next t' ∧ t = { t' with ctxs := t.ctxs } ∧
      (∀ c, i.context? = some c → t'.ctxs[c.toNat]? = t.ctxs[c.toNat]?)) ∧
  (∀ (f : InFlight) (s : State) (cs : List Context),
    State.resume f { s with ctxs := cs } = { s.resume f with ctxs := cs })

/-- R252: only a reset makes a valid context invalid; S32_NEW on a valid context starts a new lifetime. -/
def Obligations.OnlyResetInvalidates : Prop :=
  (∀ (s t : State) (k : Nat) (c : Context), s.resetLine = false → step s = .next t → s.ctxs[k]? = some c →
    c.valid = true → ∃ d, t.ctxs[k]? = some d ∧ d.valid = true) ∧
  (∀ s t : State, s.resetLine = true → step s = .next t → ∀ c ∈ t.ctxs, c.valid = false) ∧
  (∀ (s : State) (k : BitVec 4) (c : Context) (opd : Word64), s.ctxs[k.toNat]? = some c → c.valid = true →
    exec (.s32New k opd) s = .next { s with
      status := s.status.extractLsb' 3 29 ++ 0#3,
      ctxs := s.ctxs.set k.toNat ⟨true, opd.extractLsb' 0 32, opd.extractLsb' 0 32, 0#32, ⟨0#8, 0#8, 0#8⟩, 0#2⟩ })

/-- R251: a reset, between transactions or while one is held, abandons the transaction, writes no result and no outcome
code, leaves no SourceRead outstanding, and gives the state of R250. -/
def Obligations.ResetAbandonsTheTransaction : Prop :=
  ∀ s : State, s.resetLine = true → ∃ t, step s = .next t ∧
    t.readRes = .error .unwrittenRes ∧ t.readSrcerr = .error .unwrittenSrcerr ∧ t.status = 0#32 ∧
    t.nCtx = s.nCtx ∧ (∀ c ∈ t.ctxs, c.valid = false) ∧ t.engine = none ∧ t.pendingRequest = none ∧
    t.resetLine = false

/-- Sections 1 and 2 of 70_reset_and_hazards.md: once written, RES and SRCERR stay readable until a reset, and a
command that produces a result makes RES readable. -/
def Obligations.WrittenRegistersStayReadable : Prop :=
  (∀ s t : State, s.resetLine = false → step s = .next t →
    (s.readRes = .ok s.res → t.readRes = .ok t.res) ∧
    (s.readSrcerr = .ok s.srcerr → t.readSrcerr = .ok t.srcerr)) ∧
  (∀ (i : Instr) (s t : State), exec i s = .next t → t.code = 0#3 → t.engine = none →
    (∀ c o, i ≠ .s32New c o) → (∀ c o payload, i ≠ .s32Write c o payload) → t.readRes = .ok t.res) ∧
  (∀ (i : Instr) (s t : State), exec i s = .next t → i.readsSource = true → t.engine = none → t.code = 3#3 →
    t.readSrcerr = .ok t.srcerr)

/-- R250 with U7 to U10 of 93_implementation_defined.md: the values R250 leaves unspecified cannot be observed.  Two
states alike but for them stay alike through every step and every input, and every host read gives the same; so the
values of notes/assumptions/2.md change nothing a host sees. -/
def Obligations.UnspecifiedValuesUnobservable : Prop :=
  (∀ s s' : State, s.Alike s' → ∃ t t', step s = .next t ∧ step s' = .next t' ∧ t.Alike t') ∧
  (∀ s s' : State, s.Alike s' →
    s.readRes = s'.readRes ∧ s.readSrcerr = s'.readSrcerr ∧ s.readStatus = s'.readStatus ∧
    s.pendingRequest = s'.pendingRequest) ∧
  (∀ s s' : State, s.Alike s' →
    (∀ x, (s.issue x).Alike (s'.issue x)) ∧ (∀ a, (s.supply a).Alike (s'.supply a)) ∧
    s.assertReset.Alike s'.assertReset) ∧
  (∀ (n : Nat) (res : Word128) (srcerr : Word32) (cs : List Context), cs.length = n →
    (∀ c ∈ cs, c.valid = false) →
    State.Alike { State.resetOf n with res := res, srcerr := srcerr, ctxs := cs } (State.resetOf n))

/-! ## The assembler (30_encoding.md, section 6) -/

/-- Section 6 of 30_encoding.md, R81: each line of one command assembles to that command's transaction. -/
def Obligations.AssemblerMatchesEncoder : Prop :=
  (∀ (r : Nat) (x : Word32), r < 32 → assemble (.rotl32 r x) = [encode (.rotl32 (BitVec.ofNat 5 r) (x.setWidth 64))]) ∧
  (∀ (r : Nat) (x : Word64), r < 64 → assemble (.rotl64 r x) = [encode (.rotl64 (BitVec.ofNat 6 r) x)]) ∧
  (∀ x : Word32, assemble (.fmix32 x) = [encode (.fmix32 (x.setWidth 64))]) ∧
  (∀ x : Word64, assemble (.fmix64 x) = [encode (.fmix64 x)]) ∧
  (∀ (c : Nat) (seed : Word32), c < 16 →
    assemble (.s32New c seed) = [encode (.s32New (BitVec.ofNat 4 c) (seed.setWidth 64))]) ∧
  (∀ (c : Nat) (bytes : List Byte), c < 16 → bytes.length ≤ 1048575 →
    assemble (.s32Write c bytes) = [encode (.s32Write (BitVec.ofNat 4 c) 0 bytes)]) ∧
  (∀ c : Nat, c < 16 → assemble (.s32Final c) = [encode (.s32Final (BitVec.ofNat 4 c) 0)]) ∧
  (∀ seed : Word32, assemble (.x86Hash seed) = [encode (.x86Hash (seed.setWidth 64))]) ∧
  (∀ seed : Word32, assemble (.x64Hash seed) = [encode (.x64Hash (seed.setWidth 64))])

/-- R82: the pseudo-instructions: what they expand to, and what the expansion does. -/
def Obligations.PseudoInstructions : Prop :=
  (∀ (c : Nat) (seed : Word32) (bytes : List Byte),
    assemble (.s32Hash c seed bytes) =
      assemble (.s32New c seed) ++ assemble (.s32Write c bytes) ++ assemble (.s32Final c)) ∧
  (∀ (s : State) (c : Nat) (seed : Word32) (bytes : List Byte), c < 16 → c < s.nCtx →
    ∃ is t, (assemble (.s32Hash c seed bytes)).map (decode s.nCtx) = is.map .ok ∧ execAll is s = .next t ∧
      t.code = 0#3 ∧ t.res.extractLsb' 0 32 = hash32 bytes seed) ∧
  (∀ (c : Nat) (bytes : List Byte), ∃ ps : List (List Byte),
    assemble (.s32Write c bytes) = ps.map (asmWrite c) ∧ ps.flatten = bytes ∧
    (∀ p ∈ ps, p.length ≤ 1048575) ∧ (bytes.length ≤ 1048575 → ps = [bytes])) ∧
  (∀ (r : Nat) (x : Word32), 1 ≤ r → r ≤ 31 →
    assemble (.rotr32 r x) = assemble (.rotl32 (32 - r) x) ∧ rotl32 x (32 - r) = x.rotateRight r) ∧
  (∀ (r : Nat) (x : Word64), 1 ≤ r → r ≤ 63 →
    assemble (.rotr64 r x) = assemble (.rotl64 (64 - r) x) ∧ rotl64 x (64 - r) = x.rotateRight r)
end

