-- ==== Sys2Proof/Laws/State.lean ====
section
/-! SUPPORT. One lemma per field of `State` and per update of it, each true by `rfl`, so that no later proof unfolds a
record update. -/

namespace Sys2Proof.Machine

variable (s : State)

/-! ## `State.setCode` -/

@[simp] theorem State.setCode_res (c : Code) : (s.setCode c).res = s.res := rfl
@[simp] theorem State.setCode_status (c : Code) : (s.setCode c).status = s.status.extractLsb' 3 29 ++ c.bits := rfl
@[simp] theorem State.setCode_srcerr (c : Code) : (s.setCode c).srcerr = s.srcerr := rfl
@[simp] theorem State.setCode_resWritten (c : Code) : (s.setCode c).resWritten = s.resWritten := rfl
@[simp] theorem State.setCode_srcerrWritten (c : Code) : (s.setCode c).srcerrWritten = s.srcerrWritten := rfl
@[simp] theorem State.setCode_ctxs (c : Code) : (s.setCode c).ctxs = s.ctxs := rfl
@[simp] theorem State.setCode_engine (c : Code) : (s.setCode c).engine = s.engine := rfl
@[simp] theorem State.setCode_cmdPort (c : Code) : (s.setCode c).cmdPort = s.cmdPort := rfl
@[simp] theorem State.setCode_srcPort (c : Code) : (s.setCode c).srcPort = s.srcPort := rfl
@[simp] theorem State.setCode_resetLine (c : Code) : (s.setCode c).resetLine = s.resetLine := rfl
@[simp] theorem State.setCode_nCtx (c : Code) : (s.setCode c).nCtx = s.nCtx := rfl
@[simp] theorem State.setCode_ctx? (c : Code) (k : BitVec 4) : (s.setCode c).ctx? k = s.ctx? k := rfl

/-! ## `State.raise` -/

@[simp] theorem State.raise_res (c : Code) : (s.raise c).res = s.res := rfl
@[simp] theorem State.raise_status (c : Code) : (s.raise c).status = s.status.extractLsb' 3 29 ++ c.bits := rfl
@[simp] theorem State.raise_srcerr (c : Code) : (s.raise c).srcerr = s.srcerr := rfl
@[simp] theorem State.raise_resWritten (c : Code) : (s.raise c).resWritten = s.resWritten := rfl
@[simp] theorem State.raise_srcerrWritten (c : Code) : (s.raise c).srcerrWritten = s.srcerrWritten := rfl
@[simp] theorem State.raise_ctxs (c : Code) : (s.raise c).ctxs = s.ctxs := rfl
@[simp] theorem State.raise_engine (c : Code) : (s.raise c).engine = s.engine := rfl
@[simp] theorem State.raise_cmdPort (c : Code) : (s.raise c).cmdPort = s.cmdPort := rfl
@[simp] theorem State.raise_srcPort (c : Code) : (s.raise c).srcPort = s.srcPort := rfl
@[simp] theorem State.raise_resetLine (c : Code) : (s.raise c).resetLine = s.resetLine := rfl
@[simp] theorem State.raise_nCtx (c : Code) : (s.raise c).nCtx = s.nCtx := rfl
@[simp] theorem State.raise_ctx? (c : Code) (k : BitVec 4) : (s.raise c).ctx? k = s.ctx? k := rfl

/-! ## `State.writeRes` -/

@[simp] theorem State.writeRes_res (v : Word128) : (s.writeRes v).res = v := rfl
@[simp] theorem State.writeRes_status (v : Word128) : (s.writeRes v).status = s.status := rfl
@[simp] theorem State.writeRes_srcerr (v : Word128) : (s.writeRes v).srcerr = s.srcerr := rfl
@[simp] theorem State.writeRes_resWritten (v : Word128) : (s.writeRes v).resWritten = true := rfl
@[simp] theorem State.writeRes_srcerrWritten (v : Word128) : (s.writeRes v).srcerrWritten = s.srcerrWritten := rfl
@[simp] theorem State.writeRes_ctxs (v : Word128) : (s.writeRes v).ctxs = s.ctxs := rfl
@[simp] theorem State.writeRes_engine (v : Word128) : (s.writeRes v).engine = s.engine := rfl
@[simp] theorem State.writeRes_cmdPort (v : Word128) : (s.writeRes v).cmdPort = s.cmdPort := rfl
@[simp] theorem State.writeRes_srcPort (v : Word128) : (s.writeRes v).srcPort = s.srcPort := rfl
@[simp] theorem State.writeRes_resetLine (v : Word128) : (s.writeRes v).resetLine = s.resetLine := rfl
@[simp] theorem State.writeRes_nCtx (v : Word128) : (s.writeRes v).nCtx = s.nCtx := rfl
@[simp] theorem State.writeRes_ctx? (v : Word128) (k : BitVec 4) : (s.writeRes v).ctx? k = s.ctx? k := rfl

/-! ## `State.writeSrcerr` -/

@[simp] theorem State.writeSrcerr_res (tok : Word32) : (s.writeSrcerr tok).res = s.res := rfl
@[simp] theorem State.writeSrcerr_status (tok : Word32) : (s.writeSrcerr tok).status = s.status := rfl
@[simp] theorem State.writeSrcerr_srcerr (tok : Word32) : (s.writeSrcerr tok).srcerr = tok := rfl
@[simp] theorem State.writeSrcerr_resWritten (tok : Word32) : (s.writeSrcerr tok).resWritten = s.resWritten := rfl
@[simp] theorem State.writeSrcerr_srcerrWritten (tok : Word32) : (s.writeSrcerr tok).srcerrWritten = true := rfl
@[simp] theorem State.writeSrcerr_ctxs (tok : Word32) : (s.writeSrcerr tok).ctxs = s.ctxs := rfl
@[simp] theorem State.writeSrcerr_engine (tok : Word32) : (s.writeSrcerr tok).engine = s.engine := rfl
@[simp] theorem State.writeSrcerr_cmdPort (tok : Word32) : (s.writeSrcerr tok).cmdPort = s.cmdPort := rfl
@[simp] theorem State.writeSrcerr_srcPort (tok : Word32) : (s.writeSrcerr tok).srcPort = s.srcPort := rfl
@[simp] theorem State.writeSrcerr_resetLine (tok : Word32) : (s.writeSrcerr tok).resetLine = s.resetLine := rfl
@[simp] theorem State.writeSrcerr_nCtx (tok : Word32) : (s.writeSrcerr tok).nCtx = s.nCtx := rfl
@[simp] theorem State.writeSrcerr_ctx? (tok : Word32) (k : BitVec 4) : (s.writeSrcerr tok).ctx? k = s.ctx? k := rfl

/-! ## `State.respond` -/

@[simp] theorem State.respond_res (v : Word128) : (s.respond v).res = v := rfl
@[simp] theorem State.respond_status (v : Word128) : (s.respond v).status = s.status.extractLsb' 3 29 ++ 0#3 := rfl
@[simp] theorem State.respond_srcerr (v : Word128) : (s.respond v).srcerr = s.srcerr := rfl
@[simp] theorem State.respond_resWritten (v : Word128) : (s.respond v).resWritten = true := rfl
@[simp] theorem State.respond_srcerrWritten (v : Word128) : (s.respond v).srcerrWritten = s.srcerrWritten := rfl
@[simp] theorem State.respond_ctxs (v : Word128) : (s.respond v).ctxs = s.ctxs := rfl
@[simp] theorem State.respond_engine (v : Word128) : (s.respond v).engine = s.engine := rfl
@[simp] theorem State.respond_cmdPort (v : Word128) : (s.respond v).cmdPort = s.cmdPort := rfl
@[simp] theorem State.respond_srcPort (v : Word128) : (s.respond v).srcPort = s.srcPort := rfl
@[simp] theorem State.respond_resetLine (v : Word128) : (s.respond v).resetLine = s.resetLine := rfl
@[simp] theorem State.respond_nCtx (v : Word128) : (s.respond v).nCtx = s.nCtx := rfl
@[simp] theorem State.respond_ctx? (v : Word128) (k : BitVec 4) : (s.respond v).ctx? k = s.ctx? k := rfl

/-! ## `State.raiseIoerr` -/

@[simp] theorem State.raiseIoerr_res (tok : Word32) : (s.raiseIoerr tok).res = s.res := rfl
@[simp] theorem State.raiseIoerr_status (tok : Word32) : (s.raiseIoerr tok).status = s.status.extractLsb' 3 29 ++ 3#3 := rfl
@[simp] theorem State.raiseIoerr_srcerr (tok : Word32) : (s.raiseIoerr tok).srcerr = tok := rfl
@[simp] theorem State.raiseIoerr_resWritten (tok : Word32) : (s.raiseIoerr tok).resWritten = s.resWritten := rfl
@[simp] theorem State.raiseIoerr_srcerrWritten (tok : Word32) : (s.raiseIoerr tok).srcerrWritten = true := rfl
@[simp] theorem State.raiseIoerr_ctxs (tok : Word32) : (s.raiseIoerr tok).ctxs = s.ctxs := rfl
@[simp] theorem State.raiseIoerr_engine (tok : Word32) : (s.raiseIoerr tok).engine = s.engine := rfl
@[simp] theorem State.raiseIoerr_cmdPort (tok : Word32) : (s.raiseIoerr tok).cmdPort = s.cmdPort := rfl
@[simp] theorem State.raiseIoerr_srcPort (tok : Word32) : (s.raiseIoerr tok).srcPort = s.srcPort := rfl
@[simp] theorem State.raiseIoerr_resetLine (tok : Word32) : (s.raiseIoerr tok).resetLine = s.resetLine := rfl
@[simp] theorem State.raiseIoerr_nCtx (tok : Word32) : (s.raiseIoerr tok).nCtx = s.nCtx := rfl
@[simp] theorem State.raiseIoerr_ctx? (tok : Word32) (k : BitVec 4) : (s.raiseIoerr tok).ctx? k = s.ctx? k := rfl

/-! ## `State.setCtx` -/

@[simp] theorem State.setCtx_res (c : BitVec 4) (x : Context) : (s.setCtx c x).res = s.res := rfl
@[simp] theorem State.setCtx_status (c : BitVec 4) (x : Context) : (s.setCtx c x).status = s.status := rfl
@[simp] theorem State.setCtx_srcerr (c : BitVec 4) (x : Context) : (s.setCtx c x).srcerr = s.srcerr := rfl
@[simp] theorem State.setCtx_resWritten (c : BitVec 4) (x : Context) : (s.setCtx c x).resWritten = s.resWritten := rfl
@[simp] theorem State.setCtx_srcerrWritten (c : BitVec 4) (x : Context) : (s.setCtx c x).srcerrWritten = s.srcerrWritten := rfl
@[simp] theorem State.setCtx_ctxs (c : BitVec 4) (x : Context) : (s.setCtx c x).ctxs = s.ctxs.set c.toNat x := rfl
@[simp] theorem State.setCtx_engine (c : BitVec 4) (x : Context) : (s.setCtx c x).engine = s.engine := rfl
@[simp] theorem State.setCtx_cmdPort (c : BitVec 4) (x : Context) : (s.setCtx c x).cmdPort = s.cmdPort := rfl
@[simp] theorem State.setCtx_srcPort (c : BitVec 4) (x : Context) : (s.setCtx c x).srcPort = s.srcPort := rfl
@[simp] theorem State.setCtx_resetLine (c : BitVec 4) (x : Context) : (s.setCtx c x).resetLine = s.resetLine := rfl

/-! ## `State.endEngine` -/

@[simp] theorem State.endEngine_res : (s.endEngine).res = s.res := rfl
@[simp] theorem State.endEngine_status : (s.endEngine).status = s.status := rfl
@[simp] theorem State.endEngine_srcerr : (s.endEngine).srcerr = s.srcerr := rfl
@[simp] theorem State.endEngine_resWritten : (s.endEngine).resWritten = s.resWritten := rfl
@[simp] theorem State.endEngine_srcerrWritten : (s.endEngine).srcerrWritten = s.srcerrWritten := rfl
@[simp] theorem State.endEngine_ctxs : (s.endEngine).ctxs = s.ctxs := rfl
@[simp] theorem State.endEngine_engine : (s.endEngine).engine = none := rfl
@[simp] theorem State.endEngine_cmdPort : (s.endEngine).cmdPort = s.cmdPort := rfl
@[simp] theorem State.endEngine_srcPort : (s.endEngine).srcPort = s.srcPort := rfl
@[simp] theorem State.endEngine_resetLine : (s.endEngine).resetLine = s.resetLine := rfl
@[simp] theorem State.endEngine_nCtx : (s.endEngine).nCtx = s.nCtx := rfl
@[simp] theorem State.endEngine_ctx? (k : BitVec 4) : (s.endEngine).ctx? k = s.ctx? k := rfl

/-! ## `State.hold` -/

@[simp] theorem State.hold_res (f : InFlight) : (s.hold f).res = s.res := rfl
@[simp] theorem State.hold_status (f : InFlight) : (s.hold f).status = s.status := rfl
@[simp] theorem State.hold_srcerr (f : InFlight) : (s.hold f).srcerr = s.srcerr := rfl
@[simp] theorem State.hold_resWritten (f : InFlight) : (s.hold f).resWritten = s.resWritten := rfl
@[simp] theorem State.hold_srcerrWritten (f : InFlight) : (s.hold f).srcerrWritten = s.srcerrWritten := rfl
@[simp] theorem State.hold_ctxs (f : InFlight) : (s.hold f).ctxs = s.ctxs := rfl
@[simp] theorem State.hold_engine (f : InFlight) : (s.hold f).engine = some f := rfl
@[simp] theorem State.hold_cmdPort (f : InFlight) : (s.hold f).cmdPort = s.cmdPort := rfl
@[simp] theorem State.hold_srcPort (f : InFlight) : (s.hold f).srcPort = s.srcPort := rfl
@[simp] theorem State.hold_resetLine (f : InFlight) : (s.hold f).resetLine = s.resetLine := rfl
@[simp] theorem State.hold_nCtx (f : InFlight) : (s.hold f).nCtx = s.nCtx := rfl
@[simp] theorem State.hold_ctx? (f : InFlight) (k : BitVec 4) : (s.hold f).ctx? k = s.ctx? k := rfl

/-! ## `State.leaveAnswers` -/

@[simp] theorem State.leaveAnswers_res (as : List Answer) : (s.leaveAnswers as).res = s.res := rfl
@[simp] theorem State.leaveAnswers_status (as : List Answer) : (s.leaveAnswers as).status = s.status := rfl
@[simp] theorem State.leaveAnswers_srcerr (as : List Answer) : (s.leaveAnswers as).srcerr = s.srcerr := rfl
@[simp] theorem State.leaveAnswers_resWritten (as : List Answer) : (s.leaveAnswers as).resWritten = s.resWritten := rfl
@[simp] theorem State.leaveAnswers_srcerrWritten (as : List Answer) : (s.leaveAnswers as).srcerrWritten = s.srcerrWritten := rfl
@[simp] theorem State.leaveAnswers_ctxs (as : List Answer) : (s.leaveAnswers as).ctxs = s.ctxs := rfl
@[simp] theorem State.leaveAnswers_engine (as : List Answer) : (s.leaveAnswers as).engine = s.engine := rfl
@[simp] theorem State.leaveAnswers_cmdPort (as : List Answer) : (s.leaveAnswers as).cmdPort = s.cmdPort := rfl
@[simp] theorem State.leaveAnswers_srcPort (as : List Answer) : (s.leaveAnswers as).srcPort = as := rfl
@[simp] theorem State.leaveAnswers_resetLine (as : List Answer) : (s.leaveAnswers as).resetLine = s.resetLine := rfl
@[simp] theorem State.leaveAnswers_nCtx (as : List Answer) : (s.leaveAnswers as).nCtx = s.nCtx := rfl
@[simp] theorem State.leaveAnswers_ctx? (as : List Answer) (k : BitVec 4) : (s.leaveAnswers as).ctx? k = s.ctx? k := rfl

/-! ## `State.popCommand` -/

@[simp] theorem State.popCommand_res : (s.popCommand).res = s.res := rfl
@[simp] theorem State.popCommand_status : (s.popCommand).status = s.status := rfl
@[simp] theorem State.popCommand_srcerr : (s.popCommand).srcerr = s.srcerr := rfl
@[simp] theorem State.popCommand_resWritten : (s.popCommand).resWritten = s.resWritten := rfl
@[simp] theorem State.popCommand_srcerrWritten : (s.popCommand).srcerrWritten = s.srcerrWritten := rfl
@[simp] theorem State.popCommand_ctxs : (s.popCommand).ctxs = s.ctxs := rfl
@[simp] theorem State.popCommand_engine : (s.popCommand).engine = s.engine := rfl
@[simp] theorem State.popCommand_cmdPort : (s.popCommand).cmdPort = s.cmdPort.tail := rfl
@[simp] theorem State.popCommand_srcPort : (s.popCommand).srcPort = s.srcPort := rfl
@[simp] theorem State.popCommand_resetLine : (s.popCommand).resetLine = s.resetLine := rfl
@[simp] theorem State.popCommand_nCtx : (s.popCommand).nCtx = s.nCtx := rfl
@[simp] theorem State.popCommand_ctx? (k : BitVec 4) : (s.popCommand).ctx? k = s.ctx? k := rfl

/-! ## `State.offer` -/

@[simp] theorem State.offer_res (t : Transaction) : (s.offer t).res = s.res := rfl
@[simp] theorem State.offer_status (t : Transaction) : (s.offer t).status = s.status := rfl
@[simp] theorem State.offer_srcerr (t : Transaction) : (s.offer t).srcerr = s.srcerr := rfl
@[simp] theorem State.offer_resWritten (t : Transaction) : (s.offer t).resWritten = s.resWritten := rfl
@[simp] theorem State.offer_srcerrWritten (t : Transaction) : (s.offer t).srcerrWritten = s.srcerrWritten := rfl
@[simp] theorem State.offer_ctxs (t : Transaction) : (s.offer t).ctxs = s.ctxs := rfl
@[simp] theorem State.offer_engine (t : Transaction) : (s.offer t).engine = none := rfl
@[simp] theorem State.offer_cmdPort (t : Transaction) : (s.offer t).cmdPort = t :: s.cmdPort := rfl
@[simp] theorem State.offer_srcPort (t : Transaction) : (s.offer t).srcPort = s.srcPort := rfl
@[simp] theorem State.offer_resetLine (t : Transaction) : (s.offer t).resetLine = false := rfl
@[simp] theorem State.offer_nCtx (t : Transaction) : (s.offer t).nCtx = s.nCtx := rfl
@[simp] theorem State.offer_ctx? (t : Transaction) (k : BitVec 4) : (s.offer t).ctx? k = s.ctx? k := rfl

/-! ## `State.issue` -/

@[simp] theorem State.issue_res (t : Transaction) : (s.issue t).res = s.res := rfl
@[simp] theorem State.issue_status (t : Transaction) : (s.issue t).status = s.status := rfl
@[simp] theorem State.issue_srcerr (t : Transaction) : (s.issue t).srcerr = s.srcerr := rfl
@[simp] theorem State.issue_resWritten (t : Transaction) : (s.issue t).resWritten = s.resWritten := rfl
@[simp] theorem State.issue_srcerrWritten (t : Transaction) : (s.issue t).srcerrWritten = s.srcerrWritten := rfl
@[simp] theorem State.issue_ctxs (t : Transaction) : (s.issue t).ctxs = s.ctxs := rfl
@[simp] theorem State.issue_engine (t : Transaction) : (s.issue t).engine = s.engine := rfl
@[simp] theorem State.issue_cmdPort (t : Transaction) : (s.issue t).cmdPort = s.cmdPort ++ [t] := rfl
@[simp] theorem State.issue_srcPort (t : Transaction) : (s.issue t).srcPort = s.srcPort := rfl
@[simp] theorem State.issue_resetLine (t : Transaction) : (s.issue t).resetLine = s.resetLine := rfl
@[simp] theorem State.issue_nCtx (t : Transaction) : (s.issue t).nCtx = s.nCtx := rfl
@[simp] theorem State.issue_ctx? (t : Transaction) (k : BitVec 4) : (s.issue t).ctx? k = s.ctx? k := rfl

/-! ## `State.supply` -/

@[simp] theorem State.supply_res (a : Answer) : (s.supply a).res = s.res := rfl
@[simp] theorem State.supply_status (a : Answer) : (s.supply a).status = s.status := rfl
@[simp] theorem State.supply_srcerr (a : Answer) : (s.supply a).srcerr = s.srcerr := rfl
@[simp] theorem State.supply_resWritten (a : Answer) : (s.supply a).resWritten = s.resWritten := rfl
@[simp] theorem State.supply_srcerrWritten (a : Answer) : (s.supply a).srcerrWritten = s.srcerrWritten := rfl
@[simp] theorem State.supply_ctxs (a : Answer) : (s.supply a).ctxs = s.ctxs := rfl
@[simp] theorem State.supply_engine (a : Answer) : (s.supply a).engine = s.engine := rfl
@[simp] theorem State.supply_cmdPort (a : Answer) : (s.supply a).cmdPort = s.cmdPort := rfl
@[simp] theorem State.supply_srcPort (a : Answer) : (s.supply a).srcPort = s.srcPort ++ [a] := rfl
@[simp] theorem State.supply_resetLine (a : Answer) : (s.supply a).resetLine = s.resetLine := rfl
@[simp] theorem State.supply_nCtx (a : Answer) : (s.supply a).nCtx = s.nCtx := rfl
@[simp] theorem State.supply_ctx? (a : Answer) (k : BitVec 4) : (s.supply a).ctx? k = s.ctx? k := rfl

/-! ## `State.assertReset` -/

@[simp] theorem State.assertReset_res : (s.assertReset).res = s.res := rfl
@[simp] theorem State.assertReset_status : (s.assertReset).status = s.status := rfl
@[simp] theorem State.assertReset_srcerr : (s.assertReset).srcerr = s.srcerr := rfl
@[simp] theorem State.assertReset_resWritten : (s.assertReset).resWritten = s.resWritten := rfl
@[simp] theorem State.assertReset_srcerrWritten : (s.assertReset).srcerrWritten = s.srcerrWritten := rfl
@[simp] theorem State.assertReset_ctxs : (s.assertReset).ctxs = s.ctxs := rfl
@[simp] theorem State.assertReset_engine : (s.assertReset).engine = s.engine := rfl
@[simp] theorem State.assertReset_cmdPort : (s.assertReset).cmdPort = s.cmdPort := rfl
@[simp] theorem State.assertReset_srcPort : (s.assertReset).srcPort = s.srcPort := rfl
@[simp] theorem State.assertReset_resetLine : (s.assertReset).resetLine = true := rfl
@[simp] theorem State.assertReset_nCtx : (s.assertReset).nCtx = s.nCtx := rfl
@[simp] theorem State.assertReset_ctx? (k : BitVec 4) : (s.assertReset).ctx? k = s.ctx? k := rfl

/-! ## `State.takeReset` -/

@[simp] theorem State.takeReset_res : (s.takeReset).res = Config.resetRes := rfl
@[simp] theorem State.takeReset_status : (s.takeReset).status = 0#32 := rfl
@[simp] theorem State.takeReset_srcerr : (s.takeReset).srcerr = Config.resetSrcerr := rfl
@[simp] theorem State.takeReset_resWritten : (s.takeReset).resWritten = false := rfl
@[simp] theorem State.takeReset_srcerrWritten : (s.takeReset).srcerrWritten = false := rfl
@[simp] theorem State.takeReset_ctxs : (s.takeReset).ctxs = List.replicate s.nCtx Context.reset := rfl
@[simp] theorem State.takeReset_engine : (s.takeReset).engine = none := rfl
@[simp] theorem State.takeReset_cmdPort : (s.takeReset).cmdPort = s.cmdPort := rfl
@[simp] theorem State.takeReset_srcPort : (s.takeReset).srcPort = s.srcPort := rfl
@[simp] theorem State.takeReset_resetLine : (s.takeReset).resetLine = false := rfl

end Sys2Proof.Machine
end

