-- ==== Sys2Proof/Laws/Decode.lean ====
section
/-! SUPPORT. What the decoder can answer, said once; the fields of an encoded command word; and the words an opcode
byte comes from. -/

namespace Sys2Proof

/-! ## Opcodes -/

@[simp] theorem Opcode.ofByte_byte (op : Opcode) : Opcode.ofByte op.byte = some op := by
  cases op <;> decide

theorem Opcode.byte_of_ofByte {b : BitVec 8} {op : Opcode} (h : Opcode.ofByte b = some op) : b = op.byte := by
  unfold Opcode.ofByte at h
  split_ifs at h <;> (cases h; assumption)

/-- The decoder answers a command exactly when the opcode is assigned and every check of R79 passes. -/
theorem decode_eq_ok {nCtx : Nat} {t : Transaction} {i : Instr} :
    decode nCtx t = .ok i ↔ ∃ op : Opcode, t.opc = op.byte ∧ op.format.reservedClear t.cmd = true ∧
      op.format.rotateNonzero t = true ∧ op.format.ctxExists nCtx t = true ∧ op.format.payloadFits t = true ∧
      op.instr t = i := by
  constructor
  · intro h
    unfold decode at h
    split at h
    · cases h
    · rename_i op hop
      split_ifs at h
      exact ⟨op, Opcode.byte_of_ofByte hop, by simp_all⟩
  · rintro ⟨op, hop, h1, h2, h3, h4, rfl⟩
    simp [decode, hop, h1, h2, h3, h4]

/-- The decoder answers a command or an error, never both. -/
theorem decode_cases (nCtx : Nat) (t : Transaction) :
    (∃ i, decode nCtx t = .ok i) ∨ ∃ why, decode nCtx t = .error why := by
  cases decode nCtx t with
  | ok i => exact .inl ⟨i, rfl⟩
  | error why => exact .inr ⟨why, rfl⟩

/-! ## Fields of an encoded command word -/

/-- The high part of two fields side by side. -/
theorem extract_append_high {n m : Nat} (a : BitVec n) (b : BitVec m) : (a ++ b).extractLsb' m n = a := by
  ext i hi
  simp [BitVec.getLsbD_append, hi]

/-- A field inside the low part of two fields side by side. -/
theorem extract_append_low {n m k : Nat} (a : BitVec n) (b : BitVec m) (s : Nat) (h : s + k ≤ m) :
    (a ++ b).extractLsb' s k = b.extractLsb' s k := by
  ext i hi
  simp [BitVec.getLsbD_append]
  omega

/-- A whole low part. -/
theorem extract_append_all_low {n m : Nat} (a : BitVec n) (b : BitVec m) : (a ++ b).extractLsb' 0 m = b := by
  rw [extract_append_low a b 0 (by omega)]
  ext i hi
  simp

/-- A word is its high and its low part side by side. -/
theorem append_extract {n m : Nat} (x : BitVec (n + m)) : x.extractLsb' m n ++ x.extractLsb' 0 m = x := by
  ext i hi
  simp

@[simp] theorem commandWord_opc (op : Opcode) (body : BitVec 24) :
    (commandWord op body).extractLsb' 24 8 = op.byte :=
  extract_append_high op.byte body

@[simp] theorem commandWord_body (op : Opcode) (body : BitVec 24) :
    (commandWord op body).extractLsb' 0 24 = body :=
  extract_append_all_low op.byte body

/-- A field of the format's part of a command word. -/
theorem commandWord_field (op : Opcode) (body : BitVec 24) (s k : Nat) (h : s + k ≤ 24) :
    (commandWord op body).extractLsb' s k = body.extractLsb' s k :=
  extract_append_low op.byte body s h

@[simp] theorem bodyR32_amount (r : BitVec 5) : (bodyR32 r).extractLsb' 0 5 = r :=
  extract_append_all_low 0#19 r

@[simp] theorem bodyR32_reserved (r : BitVec 5) : (bodyR32 r).extractLsb' 5 19 = 0#19 :=
  extract_append_high 0#19 r

@[simp] theorem bodyR64_amount (r : BitVec 6) : (bodyR64 r).extractLsb' 0 6 = r :=
  extract_append_all_low 0#18 r

@[simp] theorem bodyR64_reserved (r : BitVec 6) : (bodyR64 r).extractLsb' 6 18 = 0#18 :=
  extract_append_high 0#18 r

@[simp] theorem bodyC_ctx (ctx : BitVec 4) (len : BitVec 20) : (bodyC ctx len).extractLsb' 20 4 = ctx :=
  extract_append_high ctx len

@[simp] theorem bodyC_len (ctx : BitVec 4) (len : BitVec 20) : (bodyC ctx len).extractLsb' 0 20 = len :=
  extract_append_all_low ctx len

/-- A command word is its OPC and the rest side by side. -/
theorem commandWord_of_fields (cmd : Word32) (op : Opcode) (h : cmd.extractLsb' 24 8 = op.byte) :
    commandWord op (cmd.extractLsb' 0 24) = cmd := by
  unfold commandWord
  rw [← h]
  exact append_extract (n := 8) (m := 24) cmd

/-- A field of a field. -/
theorem extract_extract (w s k s' k' : Nat) (x : BitVec w) (h : s' + k' ≤ k) :
    (x.extractLsb' s k).extractLsb' s' k' = x.extractLsb' (s + s') k' := by
  ext i hi
  simp [Nat.add_assoc]
  omega

theorem bodyR32_of_fields (b : BitVec 24) (h : b.extractLsb' 5 19 = 0#19) : bodyR32 (b.extractLsb' 0 5) = b := by
  have hb := append_extract (n := 19) (m := 5) b
  rw [h] at hb
  exact hb

theorem bodyR64_of_fields (b : BitVec 24) (h : b.extractLsb' 6 18 = 0#18) : bodyR64 (b.extractLsb' 0 6) = b := by
  have hb := append_extract (n := 18) (m := 6) b
  rw [h] at hb
  exact hb

theorem bodyC_of_fields (b : BitVec 24) : bodyC (b.extractLsb' 20 4) (b.extractLsb' 0 20) = b :=
  append_extract (n := 4) (m := 20) b

/-! ## A transaction whose opcode is known -/

/-- When every check of R79 passes, the decoder gives the command of OPC. -/
theorem decode_ok_of_opc {nCtx : Nat} {t : Transaction} {op : Opcode} (h : t.opc = op.byte)
    (h1 : op.format.reservedClear t.cmd = true) (h2 : op.format.rotateNonzero t = true)
    (h3 : op.format.ctxExists nCtx t = true) (h4 : op.format.payloadFits t = true) :
    decode nCtx t = .ok (op.instr t) :=
  decode_eq_ok.mpr ⟨op, h, h1, h2, h3, h4, rfl⟩

/-- When one of them fails, the decoder rejects. -/
theorem decode_error_of_opc {nCtx : Nat} {t : Transaction} {op : Opcode} (h : t.opc = op.byte)
    (hn : ¬ (op.format.reservedClear t.cmd = true ∧ op.format.rotateNonzero t = true ∧
      op.format.ctxExists nCtx t = true ∧ op.format.payloadFits t = true)) :
    ∃ why, decode nCtx t = .error why := by
  rcases decode_cases nCtx t with ⟨i, hi⟩ | hw
  · obtain ⟨op', h0, h1, h2, h3, h4, -⟩ := decode_eq_ok.mp hi
    have hop : op' = op := by
      have := Opcode.ofByte_byte op'
      rw [← h0, h, Opcode.ofByte_byte] at this
      exact (Option.some.inj this).symm
    subst hop
    exact absurd ⟨h1, h2, h3, h4⟩ hn
  · exact hw

/-! ## Match and mask (R78) -/

/-- Two command words are equal when their opcodes, and the two parts below at bit `k`, are. -/
theorem cmd_eq_iff (k : Nat) (hk : k ≤ 24) (x y : Word32) : x = y ↔
    x.extractLsb' 24 8 = y.extractLsb' 24 8 ∧ x.extractLsb' k (24 - k) = y.extractLsb' k (24 - k) ∧
      x.extractLsb' 0 k = y.extractLsb' 0 k := by
  constructor
  · rintro rfl
    simp
  · rintro ⟨h1, h2, h3⟩
    ext i hi
    rcases Nat.lt_or_ge i k with h | h
    · have := congrArg (fun z => z.getLsbD i) h3
      simpa [h, hi] using this
    · rcases Nat.lt_or_ge i 24 with h' | h'
      · have := congrArg (fun z => z.getLsbD (i - k)) h2
        simpa [show i - k < 24 - k by omega, show k + (i - k) = i by omega, hi] using this
      · have := congrArg (fun z => z.getLsbD (i - 24)) h1
        simpa [show i - 24 < 8 by omega, show 24 + (i - 24) = i by omega, hi] using this

/-- Format R32's mask. -/
theorem cmd_mask_r32 (x : Word32) :
    x &&& 0xFFFFFFE0#32 = 0x01000000#32 ↔ x.extractLsb' 24 8 = 0x01#8 ∧ x.extractLsb' 5 19 = 0#19 := by
  rw [cmd_eq_iff 5 (by omega)]
  simp only [BitVec.extractLsb'_and]
  rw [show (0xFFFFFFE0#32).extractLsb' 24 8 = BitVec.allOnes 8 by decide,
    show (0xFFFFFFE0#32).extractLsb' 5 (24 - 5) = BitVec.allOnes (24 - 5) by decide,
    show (0xFFFFFFE0#32).extractLsb' 0 5 = 0#5 by decide, BitVec.and_allOnes, BitVec.and_allOnes, BitVec.and_zero]
  simp

/-- Format R64's mask. -/
theorem cmd_mask_r64 (x : Word32) :
    x &&& 0xFFFFFFC0#32 = 0x02000000#32 ↔ x.extractLsb' 24 8 = 0x02#8 ∧ x.extractLsb' 6 18 = 0#18 := by
  rw [cmd_eq_iff 6 (by omega)]
  simp only [BitVec.extractLsb'_and]
  rw [show (0xFFFFFFC0#32).extractLsb' 24 8 = BitVec.allOnes 8 by decide,
    show (0xFFFFFFC0#32).extractLsb' 6 (24 - 6) = BitVec.allOnes (24 - 6) by decide,
    show (0xFFFFFFC0#32).extractLsb' 0 6 = 0#6 by decide, BitVec.and_allOnes, BitVec.and_allOnes, BitVec.and_zero]
  simp

/-- Format N's mask. -/
theorem cmd_mask_n (x : Word32) (op : Opcode) :
    x &&& 0xFFFFFFFF#32 = op.byte ++ 0#24 ↔ x.extractLsb' 24 8 = op.byte ∧ x.extractLsb' 0 24 = 0#24 := by
  rw [show 0xFFFFFFFF#32 = BitVec.allOnes 32 by decide, BitVec.and_allOnes]
  constructor
  · rintro rfl
    exact ⟨extract_append_high _ _, extract_append_all_low _ _⟩
  · rintro ⟨h1, h2⟩
    have := commandWord_of_fields x op h1
    rw [h2] at this
    exact this.symm

/-- Format C's mask. -/
theorem cmd_mask_c (x : Word32) (op : Opcode) :
    x &&& 0xFF0FFFFF#32 = op.byte ++ 0#24 ↔ x.extractLsb' 24 8 = op.byte ∧ x.extractLsb' 0 20 = 0#20 := by
  rw [cmd_eq_iff 20 (by omega)]
  simp only [BitVec.extractLsb'_and]
  rw [show (0xFF0FFFFF#32).extractLsb' 24 8 = BitVec.allOnes 8 by decide,
    show (0xFF0FFFFF#32).extractLsb' 20 (24 - 20) = 0#4 by decide,
    show (0xFF0FFFFF#32).extractLsb' 0 20 = BitVec.allOnes 20 by decide,
    BitVec.and_allOnes, BitVec.and_allOnes, BitVec.and_zero,
    show (op.byte ++ 0#24).extractLsb' 24 8 = op.byte from extract_append_high _ _,
    show (op.byte ++ 0#24).extractLsb' 20 (24 - 20) = 0#4 by cases op <;> decide,
    show (op.byte ++ 0#24).extractLsb' 0 20 = 0#20 by cases op <;> decide]
  simp

/-- Format CL's mask. -/
theorem cmd_mask_cl (x : Word32) : x &&& 0xFF000000#32 = 0x11000000#32 ↔ x.extractLsb' 24 8 = 0x11#8 := by
  rw [cmd_eq_iff 20 (by omega)]
  simp only [BitVec.extractLsb'_and]
  rw [show (0xFF000000#32).extractLsb' 24 8 = BitVec.allOnes 8 by decide,
    show (0xFF000000#32).extractLsb' 20 (24 - 20) = 0#4 by decide,
    show (0xFF000000#32).extractLsb' 0 20 = 0#20 by decide, BitVec.and_allOnes, BitVec.and_zero, BitVec.and_zero]
  simp

end Sys2Proof
end

