-- ==== Sys2Proof/Laws/Ops.lean ====
section
/-! SUPPORT. What the shared operations over STATUS, RES, SRCERR and the context file do, said once. -/

namespace Sys2Proof.Machine

/-! ## The operations as record updates

Each for any value written.  With them no proof asks the kernel to compare two states field by field, in which it might
unfold a digest. -/

theorem State.raise_eq (c : Code) (s : State) :
    s.raise c = { s with status := s.status.extractLsb' 3 29 ++ c.bits } := rfl

theorem State.setCode_eq (c : Code) (s : State) :
    s.setCode c = { s with status := s.status.extractLsb' 3 29 ++ c.bits } := rfl

theorem State.respond_eq (v : Word128) (s : State) :
    s.respond v = { s with res := v, resWritten := true, status := s.status.extractLsb' 3 29 ++ 0#3 } := rfl

theorem State.raiseIoerr_eq (tok : Word32) (s : State) :
    s.raiseIoerr tok =
      { s with srcerr := tok, srcerrWritten := true, status := s.status.extractLsb' 3 29 ++ 3#3 } := rfl

theorem State.setCtx_setCode_eq (c : BitVec 4) (x : Context) (s : State) :
    (s.setCtx c x).setCode .ok =
      { s with ctxs := s.ctxs.set c.toNat x, status := s.status.extractLsb' 3 29 ++ 0#3 } := rfl

/-! ## STATUS -/

/-- The reserved bits above an outcome code. -/
@[simp] theorem status_reserved (x : BitVec 29) (c : BitVec 3) : (x ++ c : Word32).extractLsb' 3 29 = x :=
  extract_append_high x c

/-- The outcome code below the reserved bits. -/
@[simp] theorem status_code (x : BitVec 29) (c : BitVec 3) : (x ++ c : Word32).extractLsb' 0 3 = c :=
  extract_append_all_low x c

/-- STATUS is its reserved bits and its code. -/
theorem status_parts (x : Word32) : (x.extractLsb' 3 29 ++ x.extractLsb' 0 3 : Word32) = x :=
  append_extract (n := 29) (m := 3) x

@[simp] theorem State.setCode_code (c : Code) (s : State) : (s.setCode c).code = c.bits :=
  status_code _ _

@[simp] theorem State.raise_code (c : Code) (s : State) : (s.raise c).code = c.bits :=
  status_code _ _

@[simp] theorem State.respond_code (v : Word128) (s : State) : (s.respond v).code = 0#3 :=
  status_code _ _

@[simp] theorem State.raiseIoerr_code (tok : Word32) (s : State) : (s.raiseIoerr tok).code = 3#3 :=
  status_code _ _

theorem Code.bits_le_four (c : Code) : c.bits.toNat ≤ 4 := by
  cases c <;> decide

/-- A later outcome code replaces an earlier one. -/
@[simp] theorem State.setCode_setCode (c d : Code) (s : State) : (s.setCode c).setCode d = s.setCode d := by
  simp only [State.setCode, status_reserved]

/-! ## The context file -/

theorem State.ctx?_eq_none {s : State} {c : BitVec 4} : s.ctx? c = none ↔ s.nCtx ≤ c.toNat := by
  simp [State.ctx?, State.nCtx]

theorem State.ctx?_of_lt {s : State} {c : BitVec 4} (h : c.toNat < s.nCtx) : ∃ x, s.ctx? c = some x :=
  ⟨s.ctxs[c.toNat]'h, List.getElem?_eq_getElem h⟩

theorem State.lt_of_ctx? {s : State} {c : BitVec 4} {x : Context} (h : s.ctx? c = some x) : c.toNat < s.nCtx := by
  by_contra hn
  rw [State.ctx?_eq_none.mpr (by omega)] at h
  cases h

@[simp] theorem State.setCtx_nCtx (c : BitVec 4) (x : Context) (s : State) : (s.setCtx c x).nCtx = s.nCtx := by
  simp [State.nCtx]

@[simp] theorem State.takeReset_nCtx (s : State) : s.takeReset.nCtx = s.nCtx := by
  simp [State.nCtx]

/-- A written context reads back. -/
theorem State.setCtx_ctx?_self {s : State} {c : BitVec 4} (x : Context) (h : c.toNat < s.nCtx) :
    (s.setCtx c x).ctx? c = some x := by
  exact List.getElem?_set_self h

/-- Writing a context leaves every other one alone. -/
theorem State.setCtx_get_ne (s : State) (c : BitVec 4) (x : Context) {k : Nat} (h : c.toNat ≠ k) :
    (s.setCtx c x).ctxs[k]? = s.ctxs[k]? := by
  simp [List.getElem?_set_ne h]

@[simp] theorem State.setCtx_setCtx (c : BitVec 4) (x y : Context) (s : State) :
    (s.setCtx c x).setCtx c y = s.setCtx c y := by
  simp [State.setCtx]

/-! ## Tails -/

@[simp] theorem Tail.zero_get (j : Nat) : Tail.zero.get j = 0#8 := by
  simp [Tail.zero, Tail.get]

theorem Tail.get_set (t : Tail) (i j : Nat) (b : Byte) (hi : i ≤ 2) (hj : j ≤ 2) :
    (t.set i b).get j = if i = j then b else t.get j := by
  interval_cases i <;> interval_cases j <;> simp [Tail.set, Tail.get]

theorem Tail.eq_of_get {t u : Tail} (h : ∀ j, j ≤ 2 → t.get j = u.get j) : t = u := by
  have h0 := h 0 (by omega)
  have h1 := h 1 (by omega)
  have h2 := h 2 (by omega)
  cases t; cases u
  simp_all [Tail.get]

end Sys2Proof.Machine
end

