-- ==== Sys2Proof/Laws/Engine.lean ====
section
/-! SUPPORT. What the read loop and the running of an engine can do, said once; and that it does not matter where
among the answers a step ends. -/

namespace Sys2Proof.Machine

variable {L : Type}

/-! ## The read loop -/

@[simp] theorem readLoop_nil (block : L → List Byte → L) (e : Engine L) : readLoop block e [] = (.held e, []) := rfl

theorem readLoop_error (block : L → List Byte → L) (e : Engine L) (tok : Word32) (as : List Answer) :
    readLoop block e (.error tok :: as) = (.failed tok, as) := rfl

/-- Either way of saying that there are no more bytes ends the loop (R55). -/
theorem readLoop_end (block : L → List Byte → L) (e : Engine L) {a : Answer} (ha : a.isEnd = true)
    (as : List Answer) : readLoop block e (a :: as) = (.ended { e with phase := .final }, as) := by
  cases a with
  | eos => rfl
  | error tok => cases ha
  | bytes bs => simp_all [Answer.isEnd, readLoop]

/-- An answer longer than the request (R56). -/
theorem readLoop_overlong (block : L → List Byte → L) (e : Engine L) (bs : List Byte) (h : e.request < bs.length)
    (as : List Answer) : readLoop block e (.bytes bs :: as) = (.overlong, as) := by
  have hne : bs ≠ [] := by
    rintro rfl
    simp at h
  simp [readLoop, hne, h]

/-- An answer that fits the request is taken (R55). -/
theorem readLoop_take (block : L → List Byte → L) (e : Engine L) (bs : List Byte) (h1 : 1 ≤ bs.length)
    (h2 : bs.length ≤ e.request) (as : List Answer) :
    readLoop block e (.bytes bs :: as) = readLoop block (e.take block bs) as := by
  have hne : bs ≠ [] := by
    rintro rfl
    simp at h1
  simp [readLoop, hne, Nat.not_lt.mpr h2]

/-- The loop takes the answers from the front and leaves the rest. -/
theorem readLoop_suffix (block : L → List Byte → L) (e : Engine L) (as : List Answer) :
    (readLoop block e as).2 <:+ as := by
  induction as generalizing e with
  | nil => simp
  | cons a as ih =>
    cases a with
    | eos => exact List.suffix_cons _ _
    | error tok => exact List.suffix_cons _ _
    | bytes bs =>
      simp only [readLoop]
      split_ifs
      · exact List.suffix_cons _ _
      · exact List.suffix_cons _ _
      · exact (ih _).trans (List.suffix_cons _ _)

/-- A loop that is held has taken every answer. -/
theorem readLoop_held_rest (block : L → List Byte → L) (e e' : Engine L) (as : List Answer)
    (h : (readLoop block e as).1 = .held e') : (readLoop block e as).2 = [] := by
  induction as generalizing e with
  | nil => rfl
  | cons a as ih =>
    cases a with
    | eos => simp [readLoop] at h
    | error tok => simp [readLoop] at h
    | bytes bs =>
      simp only [readLoop] at h ⊢
      split_ifs at h ⊢
      exact ih _ h

/-- Where a step ends among the answers does not matter: a held loop goes on with later answers as if it had had them
all, and any other end is the same with more answers behind it. -/
theorem readLoop_append (block : L → List Byte → L) (e : Engine L) (as bs : List Answer) :
    readLoop block e (as ++ bs) =
      match (readLoop block e as).1 with
      | .held e' => readLoop block e' bs
      | .ended e' => (.ended e', (readLoop block e as).2 ++ bs)
      | .failed tok => (.failed tok, (readLoop block e as).2 ++ bs)
      | .overlong => (.overlong, (readLoop block e as).2 ++ bs) := by
  induction as generalizing e with
  | nil => rfl
  | cons a as ih =>
    cases a with
    | eos => rfl
    | error tok => rfl
    | bytes p =>
      simp only [List.cons_append, readLoop]
      split_ifs
      · rfl
      · rfl
      · exact ih _

/-- A loop keeps the phase of an engine it holds. -/
theorem readLoop_held_phase (block : L → List Byte → L) (e e' : Engine L) (as : List Answer)
    (h : (readLoop block e as).1 = .held e') : e'.phase = e.phase := by
  induction as generalizing e with
  | nil => simp_all
  | cons a as ih =>
    cases a with
    | eos => simp [readLoop] at h
    | error tok => simp [readLoop] at h
    | bytes bs =>
      simp only [readLoop] at h
      split_ifs at h
      rw [ih _ h]
      simp only [Engine.take]
      split_ifs <;> rfl

/-- Taking an answer that fits keeps an engine waiting. -/
theorem Engine.take_waiting (block : L → List Byte → L) {e : Engine L} (he : e.waiting) {bs : List Byte}
    (h : bs.length ≤ e.request) : (e.take block bs).waiting := by
  obtain ⟨hp, hb, hn⟩ := he
  unfold Engine.request Config.blockBytes at h
  unfold Engine.take Config.blockBytes
  simp only [List.length_append]
  split_ifs with hf
  · exact ⟨hp, by simp, by simp; omega⟩
  · exact ⟨hp, by simp; omega, by simp; omega⟩

/-- A loop that is held leaves an engine waiting. -/
theorem readLoop_held_waiting (block : L → List Byte → L) {e : Engine L} (he : e.waiting) (e' : Engine L)
    (as : List Answer) (h : (readLoop block e as).1 = .held e') : e'.waiting := by
  induction as generalizing e with
  | nil => simp_all
  | cons a as ih =>
    cases a with
    | eos => simp [readLoop] at h
    | error tok => simp [readLoop] at h
    | bytes bs =>
      simp only [readLoop] at h
      split_ifs at h with h1 h2
      exact ih (e.take_waiting block he (by omega)) h

theorem Engine.start_waiting (l : L) : (Engine.start l).waiting := ⟨rfl, by simp [Engine.start], by simp [Engine.start]⟩

/-! ## Running an engine -/

/-- Everything the running of an engine can do to the state. -/
theorem State.runEngine_cases (k : EngineKind L) (e : Engine L) (s : State) :
    (∃ e' as, as <:+ s.srcPort ∧ s.runEngine k e = (s.leaveAnswers as).finishEngine k e') ∨
    (∃ tok as, as <:+ s.srcPort ∧ s.runEngine k e = (s.leaveAnswers as).endEngine.raiseIoerr tok) ∨
    (∃ as, as <:+ s.srcPort ∧ s.runEngine k e = (s.leaveAnswers as).endEngine.raise .protocol) ∨
    (∃ e', (readLoop k.block e s.srcPort).1 = .held e' ∧ e.phase = .absorb ∧
      s.runEngine k e = (s.leaveAnswers []).hold (k.inFlight e')) := by
  unfold State.runEngine
  cases hp : e.phase with
  | final => exact .inl ⟨e, s.srcPort, List.suffix_refl _, rfl⟩
  | absorb =>
    have hsuf := readLoop_suffix k.block e s.srcPort
    cases hr : (readLoop k.block e s.srcPort).1 with
    | held e' =>
      have := readLoop_held_rest k.block e e' s.srcPort hr
      exact .inr (.inr (.inr ⟨e', rfl, rfl, by simp [hr, this]⟩))
    | ended e' => exact .inl ⟨e', _, hsuf, by simp [hr]⟩
    | failed tok => exact .inr (.inl ⟨tok, _, hsuf, by simp [hr]⟩)
    | overlong => exact .inr (.inr (.inl ⟨_, hsuf, by simp [hr]⟩))

/-- Running an engine writes no context (R33). -/
@[simp] theorem State.runEngine_ctxs (k : EngineKind L) (e : Engine L) (s : State) : (s.runEngine k e).ctxs = s.ctxs := by
  rcases State.runEngine_cases k e s with ⟨_, _, _, h⟩ | ⟨_, _, _, h⟩ | ⟨_, _, h⟩ | ⟨_, _, _, h⟩ <;> rw [h] <;> rfl

/-- Running a waiting engine does not read the in-flight state that stands in the state: it replaces it. -/
theorem State.runEngine_with_engine (k : EngineKind L) {e : Engine L} (he : e.phase = .absorb) (s : State)
    (f : Option InFlight) : State.runEngine k e { s with engine := f } = s.runEngine k e := by
  simp only [State.runEngine, he]
  cases (readLoop k.block e s.srcPort).1 <;> rfl

/-- Running a waiting engine on an answer that fits is running it after that answer. -/
theorem State.runEngine_take (k : EngineKind L) {e : Engine L} (he : e.phase = .absorb) {s : State} {bs : List Byte}
    {rest : List Answer} (hs : s.srcPort = .bytes bs :: rest) (h1 : 1 ≤ bs.length) (h2 : bs.length ≤ e.request) :
    s.runEngine k e = State.runEngine k (e.take k.block bs) { s with srcPort := rest } := by
  have hp : (e.take k.block bs).phase = .absorb := by
    unfold Engine.take
    simp only []
    split <;> exact he
  simp only [State.runEngine, he, hp, hs, readLoop_take k.block e bs h1 h2]
  cases (readLoop k.block (e.take k.block bs) rest).1 <;> rfl

/-- Going on with a held transaction is running its engine. -/
theorem State.resume_cases (f : InFlight) (s : State) :
    (∃ e, f = .x86 e ∧ s.resume f = s.runEngine x86Kind e) ∨
    (∃ e, f = .x64 e ∧ s.resume f = s.runEngine x64Kind e) := by
  cases f with
  | x86 e => exact .inl ⟨e, rfl, rfl⟩
  | x64 e => exact .inr ⟨e, rfl, rfl⟩

end Sys2Proof.Machine
end

