-- ==== Sys2Proof/Laws/Stream.lean ====
section
/-! SUPPORT. What absorbing bytes does to a context, said once. -/

namespace Sys2Proof.Machine

@[simp] theorem Context.absorb_nil (c : Context) : c.absorb [] = c := rfl

@[simp] theorem Context.absorb_cons (c : Context) (b : Byte) (p : List Byte) :
    c.absorb (b :: p) = (c.absorbByte b).absorb p := rfl

/-- Absorbing one payload after another is absorbing them together. -/
theorem Context.absorb_append (c : Context) (p q : List Byte) : c.absorb (p ++ q) = (c.absorb p).absorb q := by
  simp [Context.absorb]

@[simp] theorem Context.absorbByte_valid (c : Context) (b : Byte) : (c.absorbByte b).valid = c.valid := by
  unfold Context.absorbByte; split_ifs <;> rfl

@[simp] theorem Context.absorbByte_seed (c : Context) (b : Byte) : (c.absorbByte b).seed = c.seed := by
  unfold Context.absorbByte; split_ifs <;> rfl

@[simp] theorem Context.absorbByte_total (c : Context) (b : Byte) : (c.absorbByte b).total = c.total := by
  unfold Context.absorbByte; split_ifs <;> rfl

@[simp] theorem Context.absorb_valid (c : Context) (p : List Byte) : (c.absorb p).valid = c.valid := by
  induction p generalizing c with
  | nil => rfl
  | cons b p ih => simp [ih]

@[simp] theorem Context.absorb_seed (c : Context) (p : List Byte) : (c.absorb p).seed = c.seed := by
  induction p generalizing c with
  | nil => rfl
  | cons b p ih => simp [ih]

@[simp] theorem Context.absorb_total (c : Context) (p : List Byte) : (c.absorb p).total = c.total := by
  induction p generalizing c with
  | nil => rfl
  | cons b p ih => simp [ih]

@[simp] theorem Context.write_valid (c : Context) (p : List Byte) : (c.write p).valid = c.valid := by
  simp [Context.write]

@[simp] theorem Context.write_seed (c : Context) (p : List Byte) : (c.write p).seed = c.seed := by
  simp [Context.write]

@[simp] theorem Context.write_total (c : Context) (p : List Byte) :
    (c.write p).total = c.total + BitVec.ofNat 32 p.length := by
  simp [Context.write]

/-- Writing TOTAL does not change how bytes are absorbed. -/
theorem Context.absorb_with_total (c : Context) (n : Word32) (p : List Byte) :
    Context.absorb { c with total := n } p = { c.absorb p with total := n } := by
  induction p generalizing c with
  | nil => rfl
  | cons b p ih =>
    have hb : Context.absorbByte { c with total := n } b = { c.absorbByte b with total := n } := by
      simp only [Context.absorbByte]
      split_ifs <;> rfl
    rw [Context.absorb_cons, hb, ih, Context.absorb_cons]

/-- Writing one payload after another is writing them together. -/
theorem Context.write_append (c : Context) (p q : List Byte) : c.write (p ++ q) = (c.write p).write q := by
  simp only [Context.write, Context.absorb_with_total, Context.absorb_append, Context.absorb_total,
    List.length_append, BitVec.ofNat_add, BitVec.add_assoc]

/-- A tail byte taken below TLEN = 3. -/
theorem Context.absorbByte_tail {c : Context} (b : Byte) (h : c.tlen.toNat < 3) :
    c.absorbByte b = { c with tail := c.tail.set c.tlen.toNat b, tlen := c.tlen + 1#2 } := by
  simp [Context.absorbByte, h]

/-- The byte that completes a block. -/
theorem Context.absorbByte_block {c : Context} (b : Byte) (h : c.tlen.toNat = 3) :
    c.absorbByte b = { c with
      acc := s32Block c.acc (le32 (c.tail.get 0) (c.tail.get 1) (c.tail.get 2) b), tail := Tail.zero, tlen := 0#2 } := by
  simp [Context.absorbByte, h]

/-- TLEN has two bits. -/
theorem Context.tlen_le (c : Context) : c.tlen.toNat ≤ 3 := by
  have := c.tlen.isLt
  omega

/-- A byte keeps the unused tail bytes zero (R30). -/
theorem Context.absorbByte_tidy {c : Context} (h : c.tidy) (b : Byte) : (c.absorbByte b).tidy := by
  intro hv j hj hj2
  rw [absorbByte_valid] at hv
  rcases Nat.lt_or_ge c.tlen.toNat 3 with h3 | h3
  · rw [absorbByte_tail b h3] at hj ⊢
    simp only at hj ⊢
    have hn : (c.tlen + 1#2).toNat = c.tlen.toNat + 1 := by
      rw [BitVec.toNat_add]; simp; omega
    rw [Tail.get_set _ _ _ _ (by omega) hj2, if_neg (by omega)]
    exact h hv j (by omega) hj2
  · rw [absorbByte_block b (by have := c.tlen_le; omega)]
    simp

theorem Context.absorb_tidy {c : Context} (h : c.tidy) (p : List Byte) : (c.absorb p).tidy := by
  induction p generalizing c with
  | nil => exact h
  | cons b p ih => exact ih (absorbByte_tidy h b)

theorem Context.write_tidy {c : Context} (h : c.tidy) (p : List Byte) : (c.write p).tidy := absorb_tidy h p

theorem Context.fresh_tidy (seed : Word32) : (Context.fresh seed).tidy := by
  intro _ j _ _
  simp [Context.fresh]

theorem Context.reset_tidy : Context.reset.tidy := by
  intro h
  cases h

end Sys2Proof.Machine
end

