-- ==== Sys2Proof/Laws/Exec.lean ====
section
/-! SUPPORT. What each command's meaning can answer, said once, so that later proofs cite these and do not unfold the
meanings; and what a step does in each of its four situations. -/

namespace Sys2Proof.Machine

/-! ## The meanings -/

theorem exec_rotl32_cases (r : BitVec 5) (o : Word64) (s : State) :
    (r = 0#5 ∧ exec (.rotl32 r o) s = .next (s.raise .illegal)) ∨
    (r ≠ 0#5 ∧ exec (.rotl32 r o) s = .next (s.respond (resOf32 (rotl32 (opdX32 o) r.toNat)))) := by
  by_cases h : r = 0#5
  · exact .inl ⟨h, if_pos h⟩
  · exact .inr ⟨h, if_neg h⟩

theorem exec_rotl64_cases (r : BitVec 6) (o : Word64) (s : State) :
    (r = 0#6 ∧ exec (.rotl64 r o) s = .next (s.raise .illegal)) ∨
    (r ≠ 0#6 ∧ exec (.rotl64 r o) s = .next (s.respond (resOf64 (rotl64 (opdX64 o) r.toNat)))) := by
  by_cases h : r = 0#6
  · exact .inl ⟨h, if_pos h⟩
  · exact .inr ⟨h, if_neg h⟩

theorem exec_fmix32 (o : Word64) (s : State) :
    exec (.fmix32 o) s = .next (s.respond (resOf32 (fmix32 (opdX32 o)))) := rfl

theorem exec_fmix64 (o : Word64) (s : State) :
    exec (.fmix64 o) s = .next (s.respond (resOf64 (fmix64 (opdX64 o)))) := rfl

theorem exec_s32New_cases (c : BitVec 4) (o : Word64) (s : State) :
    (s.ctx? c = none ∧ exec (.s32New c o) s = .next (s.raise .illegal)) ∨
    (∃ x, s.ctx? c = some x ∧
      exec (.s32New c o) s = .next ((s.setCtx c (Context.fresh (opdSeed o))).setCode .ok)) := by
  cases h : s.ctx? c with
  | none => exact .inl ⟨rfl, by simp [exec, execS32New, h]⟩
  | some x => exact .inr ⟨x, rfl, by simp [exec, execS32New, h]⟩

theorem exec_s32Write_cases (c : BitVec 4) (o : Word64) (p : List Byte) (s : State) :
    ((Config.payloadLimit ≤ p.length ∨ s.ctx? c = none) ∧ exec (.s32Write c o p) s = .next (s.raise .illegal)) ∨
    (∃ x, p.length < Config.payloadLimit ∧ s.ctx? c = some x ∧ x.valid = false ∧
      exec (.s32Write c o p) s = .next (s.raise .uninit)) ∨
    (∃ x, p.length < Config.payloadLimit ∧ s.ctx? c = some x ∧ x.valid = true ∧
      exec (.s32Write c o p) s = .next ((s.setCtx c (x.write p)).setCode .ok)) := by
  by_cases hl : Config.payloadLimit ≤ p.length
  · exact .inl ⟨.inl hl, by simp [exec, execS32Write, hl]⟩
  · cases h : s.ctx? c with
    | none => exact .inl ⟨.inr rfl, by simp [exec, execS32Write, h]⟩
    | some x =>
      cases hv : x.valid with
      | false => exact .inr (.inl ⟨x, by omega, rfl, hv, by simp [exec, execS32Write, h, hv, hl]⟩)
      | true => exact .inr (.inr ⟨x, by omega, rfl, hv, by simp [exec, execS32Write, h, hv, hl]⟩)

theorem exec_s32Final_cases (c : BitVec 4) (o : Word64) (s : State) :
    (s.ctx? c = none ∧ exec (.s32Final c o) s = .next (s.raise .illegal)) ∨
    (∃ x, s.ctx? c = some x ∧ x.valid = false ∧ exec (.s32Final c o) s = .next (s.raise .uninit)) ∨
    (∃ x, s.ctx? c = some x ∧ x.valid = true ∧ exec (.s32Final c o) s = .next (s.respond (resOf32 x.digest))) := by
  cases h : s.ctx? c with
  | none => exact .inl ⟨rfl, by simp [exec, execS32Final, h]⟩
  | some x =>
    cases hv : x.valid with
    | false => exact .inr (.inl ⟨x, rfl, hv, by simp [exec, execS32Final, h, hv]⟩)
    | true => exact .inr (.inr ⟨x, rfl, hv, by simp [exec, execS32Final, h, hv]⟩)

theorem exec_x86Hash (o : Word64) (s : State) :
    exec (.x86Hash o) s = .next (s.runEngine x86Kind (Engine.start (x86Start (opdSeed o)))) := rfl

theorem exec_x64Hash (o : Word64) (s : State) :
    exec (.x64Hash o) s = .next (s.runEngine x64Kind (Engine.start (x64Start (opdSeed o)))) := rfl

/-- A command that reads the source starts one of the two engines. -/
theorem exec_readsSource {i : Instr} (h : i.readsSource = true) (s : State) :
    (∃ l, exec i s = .next (s.runEngine x86Kind (Engine.start l))) ∨
    (∃ l, exec i s = .next (s.runEngine x64Kind (Engine.start l))) := by
  cases i with
  | x86Hash o => exact .inl ⟨_, rfl⟩
  | x64Hash o => exact .inr ⟨_, rfl⟩
  | _ => cases h

/-- Every command answers a next state. -/
theorem exec_next (i : Instr) (s : State) : ∃ t, exec i s = .next t := by
  cases i with
  | rotl32 r o => rcases exec_rotl32_cases r o s with ⟨_, h⟩ | ⟨_, h⟩ <;> exact ⟨_, h⟩
  | rotl64 r o => rcases exec_rotl64_cases r o s with ⟨_, h⟩ | ⟨_, h⟩ <;> exact ⟨_, h⟩
  | fmix32 o => exact ⟨_, rfl⟩
  | fmix64 o => exact ⟨_, rfl⟩
  | s32New c o => rcases exec_s32New_cases c o s with ⟨_, h⟩ | ⟨_, _, h⟩ <;> exact ⟨_, h⟩
  | s32Write c o p =>
    rcases exec_s32Write_cases c o p s with ⟨_, h⟩ | ⟨_, _, _, _, h⟩ | ⟨_, _, _, _, h⟩ <;> exact ⟨_, h⟩
  | s32Final c o => rcases exec_s32Final_cases c o s with ⟨_, h⟩ | ⟨_, _, _, h⟩ | ⟨_, _, _, h⟩ <;> exact ⟨_, h⟩
  | x86Hash o => exact ⟨_, rfl⟩
  | x64Hash o => exact ⟨_, rfl⟩

/-- Everything a command that does not read the source can do: raise, respond, or write the context it names. -/
theorem exec_plain_cases {i : Instr} (hi : i.readsSource = false) (s : State) :
    (∃ c, c ≠ .ok ∧ exec i s = .next (s.raise c)) ∨
    (∃ v, exec i s = .next (s.respond v) ∧ (∀ c o, i ≠ .s32New c o) ∧ (∀ c o p, i ≠ .s32Write c o p)) ∨
    (∃ c x, i.context? = some c ∧ c.toNat < s.nCtx ∧ x.valid = true ∧
      exec i s = .next ((s.setCtx c x).setCode .ok) ∧ ((∃ o, i = .s32New c o) ∨ ∃ o p, i = .s32Write c o p)) := by
  cases i with
  | rotl32 r o =>
    rcases exec_rotl32_cases r o s with ⟨_, h⟩ | ⟨_, h⟩
    · exact .inl ⟨_, by decide, h⟩
    · exact .inr (.inl ⟨_, h, by simp, by simp⟩)
  | rotl64 r o =>
    rcases exec_rotl64_cases r o s with ⟨_, h⟩ | ⟨_, h⟩
    · exact .inl ⟨_, by decide, h⟩
    · exact .inr (.inl ⟨_, h, by simp, by simp⟩)
  | fmix32 o => exact .inr (.inl ⟨_, exec_fmix32 o s, by simp, by simp⟩)
  | fmix64 o => exact .inr (.inl ⟨_, exec_fmix64 o s, by simp, by simp⟩)
  | s32New c o =>
    rcases exec_s32New_cases c o s with ⟨_, h⟩ | ⟨x, hx, h⟩
    · exact .inl ⟨_, by decide, h⟩
    · exact .inr (.inr ⟨c, _, rfl, State.lt_of_ctx? hx, rfl, h, .inl ⟨o, rfl⟩⟩)
  | s32Write c o p =>
    rcases exec_s32Write_cases c o p s with ⟨_, h⟩ | ⟨_, _, _, _, h⟩ | ⟨x, _, hx, hv, h⟩
    · exact .inl ⟨_, by decide, h⟩
    · exact .inl ⟨_, by decide, h⟩
    · exact .inr (.inr ⟨c, _, rfl, State.lt_of_ctx? hx, by simp [hv], h, .inr ⟨o, p, rfl⟩⟩)
  | s32Final c o =>
    rcases exec_s32Final_cases c o s with ⟨_, h⟩ | ⟨_, _, _, h⟩ | ⟨_, _, _, h⟩
    · exact .inl ⟨_, by decide, h⟩
    · exact .inl ⟨_, by decide, h⟩
    · exact .inr (.inl ⟨_, h, by simp, by simp⟩)
  | x86Hash o => cases hi
  | x64Hash o => cases hi

/-! ## The step -/

theorem step_reset {s : State} (h : s.resetLine = true) : step s = .next s.takeReset := by
  simp [step, h]

theorem step_held {s : State} {f : InFlight} (h : s.resetLine = false) (hf : s.engine = some f) :
    step s = .next (s.resume f) := by
  simp [step, h, hf]

theorem step_idle {s : State} (h : s.resetLine = false) (hf : s.engine = none) (hc : s.cmdPort = []) :
    step s = .next s := by
  simp [step, h, hf, hc]

theorem step_ready {s : State} {t : Transaction} (h : s.Ready t) : step s = s.popCommand.accept t := by
  obtain ⟨hr, he, hc⟩ := h
  cases hp : s.cmdPort with
  | nil => simp [hp] at hc
  | cons u us =>
    have : u = t := by simpa [hp] using hc
    simp [step, hr, he, hp, this]

theorem accept_ok {s : State} {t : Transaction} {i : Instr} (h : decode s.nCtx t = .ok i) : s.accept t = exec i s := by
  simp [State.accept, h]

theorem accept_error {s : State} {t : Transaction} {why : DecodeError} (h : decode s.nCtx t = .error why) :
    s.accept t = .next (s.raise .illegal) := by
  simp [State.accept, h]

/-- Everything a step can do: take a reset, go on with a held transaction, stay idle, run the command it decodes from
the next transaction, or reject that transaction. -/
theorem step_cases {s t : State} (h : step s = .next t) :
    (s.resetLine = true ∧ t = s.takeReset) ∨
    (s.resetLine = false ∧ ∃ f, s.engine = some f ∧ t = s.resume f) ∨
    (s.resetLine = false ∧ s.engine = none ∧ s.cmdPort = [] ∧ t = s) ∨
    (s.resetLine = false ∧ s.engine = none ∧ ∃ u i, s.cmdPort.head? = some u ∧ decode s.nCtx u = .ok i ∧
      exec i s.popCommand = .next t) ∨
    (s.resetLine = false ∧ s.engine = none ∧ ∃ u why, s.cmdPort.head? = some u ∧ decode s.nCtx u = .error why ∧
      t = s.popCommand.raise .illegal) := by
  cases hr : s.resetLine with
  | true =>
    rw [step_reset hr] at h
    injection h with h
    exact .inl ⟨rfl, h.symm⟩
  | false =>
    cases he : s.engine with
    | some f =>
      rw [step_held hr he] at h
      injection h with h
      exact .inr (.inl ⟨rfl, f, rfl, h.symm⟩)
    | none =>
      cases hc : s.cmdPort with
      | nil =>
        rw [step_idle hr he hc] at h
        injection h with h
        exact .inr (.inr (.inl ⟨rfl, rfl, rfl, h.symm⟩))
      | cons u us =>
        rw [step_ready (t := u) ⟨hr, he, by simp [hc]⟩] at h
        rcases decode_cases s.popCommand.nCtx u with ⟨i, hi⟩ | ⟨w, hw⟩
        · rw [accept_ok hi] at h
          exact .inr (.inr (.inr (.inl ⟨rfl, rfl, u, i, by simp, by simpa using hi, h⟩)))
        · rw [accept_error hw] at h
          injection h with h
          exact .inr (.inr (.inr (.inr ⟨rfl, rfl, u, w, by simp, by simpa using hw, h.symm⟩)))

end Sys2Proof.Machine
end

