-- ==== Sys2Proof/Laws/Assembler.lean ====
section
/-! SUPPORT. The assembler's lines as equations, its command words as numbers, and how a long payload is cut. -/

namespace Sys2Proof.Machine

@[simp] theorem assemble_rotl32 (r : Nat) (x : Word32) : assemble (.rotl32 r x) = [asmRotl32 r x] := rfl
@[simp] theorem assemble_rotl64 (r : Nat) (x : Word64) : assemble (.rotl64 r x) = [asmRotl64 r x] := rfl
@[simp] theorem assemble_s32New (c : Nat) (seed : Word32) : assemble (.s32New c seed) = [asmNew c seed] := rfl
@[simp] theorem assemble_s32Write (c : Nat) (bs : List Byte) :
    assemble (.s32Write c bs) = (splitPayload bs).map (asmWrite c) := rfl
@[simp] theorem assemble_s32Final (c : Nat) : assemble (.s32Final c) = [asmFinal c] := rfl
@[simp] theorem assemble_rotr32 (r : Nat) (x : Word32) : assemble (.rotr32 r x) = [asmRotl32 (32 - r) x] := rfl
@[simp] theorem assemble_rotr64 (r : Nat) (x : Word64) : assemble (.rotr64 r x) = [asmRotl64 (64 - r) x] := rfl

/-- Two fields side by side as one number. -/
theorem append_toNat {n m : Nat} (a : BitVec n) (b : BitVec m) : (a ++ b).toNat = a.toNat * 2 ^ m + b.toNat := by
  rw [BitVec.toNat_append, Nat.shiftLeft_eq, Nat.mul_comm, ← Nat.two_pow_add_eq_or_of_lt b.isLt]

/-- A command word as one number. -/
theorem commandWord_eq_ofNat (op : Opcode) (body : BitVec 24) :
    commandWord op body = BitVec.ofNat 32 (op.byte.toNat * 2 ^ 24 + body.toNat) := by
  apply BitVec.eq_of_toNat_eq
  unfold commandWord
  rw [append_toNat, BitVec.toNat_ofNat]
  have := op.byte.isLt
  have := body.isLt
  omega

/-- The pieces of a cut payload: together the payload, each short enough. -/
theorem splitAtMost_spec (n fuel : Nat) (hn : 1 ≤ n) (bs : List Byte) (h : bs.length ≤ fuel + n) :
    (splitAtMost n fuel bs).flatten = bs ∧ ∀ p ∈ splitAtMost n fuel bs, p.length ≤ n := by
  induction fuel generalizing bs with
  | zero => simpa [splitAtMost] using h
  | succ f ih =>
    simp only [splitAtMost]
    split
    · simp; assumption
    · obtain ⟨h1, h2⟩ := ih (bs.drop n) (by simp; omega)
      constructor
      · simp [h1]
      · intro p hp
        rcases List.mem_cons.mp hp with rfl | hp
        · simp
        · exact h2 p hp

end Sys2Proof.Machine
end

