-- ==== Sys2Proof/Laws/Operands.lean ====
section
/-! SUPPORT. Bytes inside words and words inside byte lists: what the operand helpers give, said once. -/

namespace Sys2Proof.Machine

/-- A byte widened and shifted to byte place `k` stands there, and every other byte is zero. -/
theorem placed_byte (n : Nat) (b : Byte) (k j : Nat) (hk : k < n) (hj : j < n) :
    ((b.setWidth (8 * n)) <<< (8 * k)).extractLsb' (8 * j) 8 = if j = k then b else 0#8 := by
  apply BitVec.eq_of_getLsbD_eq
  intro i hi
  simp only [BitVec.getLsbD_extractLsb', BitVec.getLsbD_shiftLeft, BitVec.getLsbD_setWidth]
  split
  · subst j
    simp [hi, show 8 * k + i < 8 * n by omega]
    omega
  · rcases Nat.lt_or_ge j k with h | h
    · simp [show 8 * j + i < 8 * k by omega]
    · have : b.getLsbD (8 * j + i - 8 * k) = false := BitVec.getLsbD_of_ge _ _ (by omega)
      simp [this]

/-- A field inside the high part of two fields side by side. -/
theorem extract_append_beyond {n m : Nat} (a : BitVec n) (b : BitVec m) (s k : Nat) (h : m ≤ s) :
    (a ++ b).extractLsb' s k = a.extractLsb' (s - m) k := by
  apply BitVec.eq_of_getLsbD_eq
  intro i hi
  simp only [BitVec.getLsbD_extractLsb', BitVec.getLsbD_append, hi, decide_true, Bool.true_and]
  rw [if_neg (by omega), show s + i - m = s - m + i by omega]

/-- Beyond the end of a byte list every byte reads as zero. -/
theorem getD_beyond (bs : List Byte) (i : Nat) (h : bs.length ≤ i) : bs.getD i 0#8 = 0#8 :=
  List.getD_eq_default _ _ h

/-- A 32-bit word the list does not reach is zero. -/
theorem word32At_beyond (bs : List Byte) (i : Nat) (h : bs.length ≤ 4 * i) : word32At bs i = 0#32 := by
  unfold word32At
  rw [getD_beyond bs _ h, getD_beyond bs (4 * i + 1) (by omega), getD_beyond bs (4 * i + 2) (by omega),
    getD_beyond bs (4 * i + 3) (by omega)]
  decide

/-- A 64-bit word the list does not reach is zero. -/
theorem word64At_beyond (bs : List Byte) (i : Nat) (h : bs.length ≤ 8 * i) : word64At bs i = 0#64 := by
  unfold word64At
  rw [getD_beyond bs _ h, getD_beyond bs (8 * i + 1) (by omega), getD_beyond bs (8 * i + 2) (by omega),
    getD_beyond bs (8 * i + 3) (by omega), getD_beyond bs (8 * i + 4) (by omega), getD_beyond bs (8 * i + 5) (by omega),
    getD_beyond bs (8 * i + 6) (by omega), getD_beyond bs (8 * i + 7) (by omega)]
  decide

/-- A 32-bit word that lies inside a list is the same in a longer one. -/
theorem word32At_append (bs cs : List Byte) (i : Nat) (h : 4 * i + 3 < bs.length) :
    word32At (bs ++ cs) i = word32At bs i := by
  unfold word32At
  rw [List.getD_append bs cs _ (4 * i) (by omega), List.getD_append bs cs _ (4 * i + 1) (by omega),
    List.getD_append bs cs _ (4 * i + 2) (by omega), List.getD_append bs cs _ (4 * i + 3) h]

/-- The tail bytes of a function of the index. -/
theorem Tail.get_mk (f : Nat → Byte) (j : Nat) (h : j ≤ 2) : Tail.get ⟨f 0, f 1, f 2⟩ j = f j := by
  interval_cases j <;> rfl

end Sys2Proof.Machine
end

