-- ==== Sys2Proof/Laws/PerInstr.lean ====
section
/-! SUPPORT. The statements made for every command, one lemma a constructor (LAWS.json). -/

namespace Sys2Proof.Laws.Encoding

/-- R71 to R78: the word a command is encoded as has the command's OPC and zeros in the reserved bits of its format,
and it matches the row of the opcode map that bears the command's mnemonic. -/
def Statement (i : Instr) : Prop :=
  (encode i).opc = i.opcode.byte ∧ i.opcode.format.reservedClear (encode i).cmd = true ∧
  ∃ row ∈ opcodeMap, row.op = i.opcode ∧ row.mnemonic = i.mnemonic ∧ (encode i).cmd &&& row.mask = row.bits

/-- The first two parts give the third where the row's mask and match say no more than they do. -/
theorem of_row {i : Instr} (row : MapRow) (hrow : row ∈ opcodeMap) (hop : row.op = i.opcode)
    (hm : row.mnemonic = i.mnemonic) (h1 : (encode i).opc = i.opcode.byte)
    (h2 : i.opcode.format.reservedClear (encode i).cmd = true)
    (hmask : (encode i).opc = i.opcode.byte → i.opcode.format.reservedClear (encode i).cmd = true →
      (encode i).cmd &&& row.mask = row.bits) : Statement i :=
  ⟨h1, h2, row, hrow, hop, hm, hmask h1 h2⟩

theorem rotl32 (r : BitVec 5) (opd : Word64) : Statement (.rotl32 r opd) := by
  refine of_row ⟨.rotl32, "ROTL32", 0x01000000#32, 0xFFFFFFE0#32⟩ (by decide) rfl rfl (commandWord_opc _ _) ?_
    fun h1 h2 => (cmd_mask_r32 _).mpr ⟨h1, beq_iff_eq.mp h2⟩
  simp only [Instr.opcode, Opcode.format, Format.reservedClear, encode, beq_iff_eq]
  rw [commandWord_field _ _ _ _ (by omega), bodyR32_reserved]

theorem rotl64 (r : BitVec 6) (opd : Word64) : Statement (.rotl64 r opd) := by
  refine of_row ⟨.rotl64, "ROTL64", 0x02000000#32, 0xFFFFFFC0#32⟩ (by decide) rfl rfl (commandWord_opc _ _) ?_
    fun h1 h2 => (cmd_mask_r64 _).mpr ⟨h1, beq_iff_eq.mp h2⟩
  simp only [Instr.opcode, Opcode.format, Format.reservedClear, encode, beq_iff_eq]
  rw [commandWord_field _ _ _ _ (by omega), bodyR64_reserved]

theorem fmix32 (opd : Word64) : Statement (.fmix32 opd) :=
  of_row ⟨.fmix32, "FMIX32", 0x03000000#32, 0xFFFFFFFF#32⟩ (by decide) rfl rfl (commandWord_opc _ _)
    (beq_iff_eq.mpr (commandWord_body _ _)) fun h1 h2 => (cmd_mask_n _ .fmix32).mpr ⟨h1, beq_iff_eq.mp h2⟩

theorem fmix64 (opd : Word64) : Statement (.fmix64 opd) :=
  of_row ⟨.fmix64, "FMIX64", 0x04000000#32, 0xFFFFFFFF#32⟩ (by decide) rfl rfl (commandWord_opc _ _)
    (beq_iff_eq.mpr (commandWord_body _ _)) fun h1 h2 => (cmd_mask_n _ .fmix64).mpr ⟨h1, beq_iff_eq.mp h2⟩

theorem s32New (ctx : BitVec 4) (opd : Word64) : Statement (.s32New ctx opd) := by
  refine of_row ⟨.s32New, "S32_NEW", 0x10000000#32, 0xFF0FFFFF#32⟩ (by decide) rfl rfl (commandWord_opc _ _) ?_
    fun h1 h2 => (cmd_mask_c _ .s32New).mpr ⟨h1, beq_iff_eq.mp h2⟩
  simp only [Instr.opcode, Opcode.format, Format.reservedClear, encode, beq_iff_eq]
  rw [commandWord_field _ _ _ _ (by omega), bodyC_len]

theorem s32Write (ctx : BitVec 4) (opd : Word64) (payload : List Byte) : Statement (.s32Write ctx opd payload) :=
  of_row ⟨.s32Write, "S32_WRITE", 0x11000000#32, 0xFF000000#32⟩ (by decide) rfl rfl (commandWord_opc _ _) rfl
    fun h1 _ => (cmd_mask_cl _).mpr h1

theorem s32Final (ctx : BitVec 4) (opd : Word64) : Statement (.s32Final ctx opd) := by
  refine of_row ⟨.s32Final, "S32_FINAL", 0x12000000#32, 0xFF0FFFFF#32⟩ (by decide) rfl rfl (commandWord_opc _ _) ?_
    fun h1 h2 => (cmd_mask_c _ .s32Final).mpr ⟨h1, beq_iff_eq.mp h2⟩
  simp only [Instr.opcode, Opcode.format, Format.reservedClear, encode, beq_iff_eq]
  rw [commandWord_field _ _ _ _ (by omega), bodyC_len]

theorem x86Hash (opd : Word64) : Statement (.x86Hash opd) :=
  of_row ⟨.x86Hash, "X86_128", 0x20000000#32, 0xFFFFFFFF#32⟩ (by decide) rfl rfl (commandWord_opc _ _)
    (beq_iff_eq.mpr (commandWord_body _ _)) fun h1 h2 => (cmd_mask_n _ .x86Hash).mpr ⟨h1, beq_iff_eq.mp h2⟩

theorem x64Hash (opd : Word64) : Statement (.x64Hash opd) :=
  of_row ⟨.x64Hash, "X64_128", 0x21000000#32, 0xFFFFFFFF#32⟩ (by decide) rfl rfl (commandWord_opc _ _)
    (beq_iff_eq.mpr (commandWord_body _ _)) fun h1 h2 => (cmd_mask_n _ .x64Hash).mpr ⟨h1, beq_iff_eq.mp h2⟩

end Sys2Proof.Laws.Encoding
end

