-- ==== Sys2Proof/Tests/Slice0.lean ====
section
/-! SUPPORT. The model's own tests: the WellFormed smoke tests, words written out bit by bit from spec/30_encoding.md,
one step of each command against the vectors of spec/95_test_vectors.md (each test names its vector), and for every
statement with hypotheses a witness that meets them.  Every expected value comes from the spec. -/

namespace Sys2Proof.Tests

-- One theorem after the other: a hundred kernel evaluations at once need a thread each.
set_option Elab.async false

open Sys2Proof.Machine

/-! ## Helpers -/

/-- The outcome is a next state with this property. -/
def nextIs (o : Host.Outcome State Fault Refusal) (p : State → Bool) : Bool :=
  match o with
  | .next s => p s
  | .fault _ => false
  | .refused _ => false

/-- A block with `n` contexts, right after reset, that is offered one transaction. -/
def offered (n : Nat) (cmd : Word32) (opd : Word64) (payload : List Byte) : State :=
  (State.resetOf n).offer ⟨cmd, opd, payload⟩

/-- The context of vector V56, after `S32_WRITE 0, "Hello, world!"` from seed 0. -/
def helloContext : Context := ⟨true, 0, 0xa1590249, 13, ⟨0x21, 0, 0⟩, 1⟩

/-- A block with the context of V56 and one that S32_NEW has not initialised. -/
def helloState : State := { State.resetOf 2 with ctxs := [helloContext, Context.reset] }

/-- "Hello, world!" -/
def hello : List Byte := [0x48, 0x65, 0x6c, 0x6c, 0x6f, 0x2c, 0x20, 0x77, 0x6f, 0x72, 0x6c, 0x64, 0x21]

/-- The bytes 00 to `n - 1` (V40). -/
def upTo (n : Nat) : List Byte := (List.range n).map (BitVec.ofNat 8)

/-- `s` with these answers on its source port. -/
def answered (s : State) (as : List Answer) : State := { s with srcPort := as }

/-! ## WellFormed: an ill-formed term for each check -/

theorem test_wf_rotl32_zero : Instr.wf 1 (.rotl32 0 7) = false := by decide
theorem test_wf_rotl64_zero : Instr.wf 1 (.rotl64 0 7) = false := by decide
theorem test_wf_s32New_context : Instr.wf 1 (.s32New 1 7) = false := by decide
theorem test_wf_s32Write_context : Instr.wf 1 (.s32Write 1 7 []) = false := by decide
theorem test_wf_s32Final_context : Instr.wf 1 (.s32Final 1 7) = false := by decide
/-- Every payload of 2^20 bytes is too long ... -/
theorem test_wf_s32Write_length (p : List Byte) (h : p.length = 2 ^ 20) : Instr.wf 1 (.s32Write 0 7 p) = false := by
  simp only [Instr.wf, h, Config.payloadLimit]
  decide
/-- ... and every one of 2^20 - 1 is not. -/
theorem test_wf_s32Write_longest (p : List Byte) (h : p.length = 2 ^ 20 - 1) : Instr.wf 1 (.s32Write 0 7 p) = true := by
  simp only [Instr.wf, h, Config.payloadLimit]
  decide
theorem test_wf_amounts : Instr.wf 1 (.rotl32 31 7) = true ∧ Instr.wf 1 (.rotl64 63 7) = true := by decide

/-! ## Decoding: words written out bit by bit -/

/-- R73: OPC 00000001, 19 reserved bits, R = 01111. -/
theorem test_decode_rotl32 :
    decode 1 ⟨0b00000001_0000000000000000000_01111#32, 0x12345678, []⟩ = .ok (.rotl32 15 0x12345678) := by
  decide +kernel
/-- R74: OPC 00000010, 18 reserved bits, R = 111111. -/
theorem test_decode_rotl64 : decode 1 ⟨0b00000010_000000000000000000_111111#32, 9, []⟩ = .ok (.rotl64 63 9) := by
  decide +kernel
/-- R72: OPC 00000011, 24 reserved bits. -/
theorem test_decode_fmix32 : decode 1 ⟨0b00000011_000000000000000000000000#32, 9, []⟩ = .ok (.fmix32 9) := by
  decide +kernel
/-- R72: OPC 00000100. -/
theorem test_decode_fmix64 : decode 1 ⟨0b00000100_000000000000000000000000#32, 9, []⟩ = .ok (.fmix64 9) := by
  decide +kernel
/-- R75: OPC 00010000, CTX 1010, 20 reserved bits. -/
theorem test_decode_s32New : decode 16 ⟨0b00010000_1010_00000000000000000000#32, 9, []⟩ = .ok (.s32New 10 9) := by
  decide +kernel
/-- R76: OPC 00010001, CTX 1111, LEN = 3. -/
theorem test_decode_s32Write :
    decode 16 ⟨0b00010001_1111_00000000000000000011#32, 9, [1, 2, 3]⟩ = .ok (.s32Write 15 9 [1, 2, 3]) := by
  decide +kernel
/-- R75: OPC 00010010, CTX 0001. -/
theorem test_decode_s32Final : decode 2 ⟨0b00010010_0001_00000000000000000000#32, 9, []⟩ = .ok (.s32Final 1 9) := by
  decide +kernel
/-- R72: OPC 00100000. -/
theorem test_decode_x86Hash : decode 1 ⟨0b00100000_000000000000000000000000#32, 9, []⟩ = .ok (.x86Hash 9) := by
  decide +kernel
/-- R72: OPC 00100001. -/
theorem test_decode_x64Hash : decode 1 ⟨0b00100001_000000000000000000000000#32, 9, []⟩ = .ok (.x64Hash 9) := by
  decide +kernel
/-- V25, V26, V30, V31, V39f, V39g, V54, V55, V130 to V133: each is rejected. -/
theorem test_decode_illegal :
    [(⟨0x01000000, 5, []⟩ : Transaction), ⟨0x01000020, 5, []⟩, ⟨0x02000000, 5, []⟩, ⟨0x02000040, 5, []⟩,
      ⟨0x03000001, 5, []⟩, ⟨0x03000000, 5, [0x78]⟩, ⟨0x10100000, 0, []⟩, ⟨0x11000005, 0, [1, 2, 3, 4]⟩, ⟨0, 0, []⟩,
      ⟨0xFF000000, 0, []⟩, ⟨0x05000000, 0, []⟩, ⟨0x13000000, 0, []⟩, ⟨0x22000000, 0, []⟩, ⟨0x20000000, 0, [1]⟩].all
      (fun t => match decode 1 t with | .ok _ => false | .error _ => true) = true := by
  decide +kernel
/-- R71, R78: the rows of the opcode table, with OPD and payload zero. -/
theorem test_table_words :
    decodeTableWord 32 0x01000001 = some (.rotl32 1 0) ∧ decodeTableWord 32 0x0200003F = some (.rotl64 63 0) ∧
    decodeTableWord 32 0x03000000 = some (.fmix32 0) ∧ decodeTableWord 32 0x04000000 = some (.fmix64 0) ∧
    decodeTableWord 32 0x10000000 = some (.s32New 0 0) ∧ decodeTableWord 32 0x11000002 = some (.s32Write 0 0 [0, 0]) ∧
    decodeTableWord 32 0x12000000 = some (.s32Final 0 0) ∧ decodeTableWord 32 0x20000000 = some (.x86Hash 0) ∧
    decodeTableWord 32 0x21000000 = some (.x64Hash 0) ∧ decodeTableWord 32 0x01000000 = none := by
  decide +kernel
/-- R83: the encoder's words. -/
theorem test_encode_words :
    (encode (.rotl32 15 7)).cmd = 0x0100000F ∧ (encode (.rotl64 33 7)).cmd = 0x02000021 ∧
    (encode (.s32New 1 7)).cmd = 0x10100000 ∧ (encode (.s32Write 0 0 hello)).cmd = 0x1100000D ∧
    (encode (.x64Hash 7)).cmd = 0x21000000 := by
  decide +kernel
/-- R81, R82: lines of assembly. -/
theorem test_assembler :
    assembleText "ROTL32 15, 0x12345678" = some [⟨0x0100000F, 0x12345678, []⟩] ∧
    assembleText "S32_WRITE 0, \"Hello, world!\"" = some [⟨0x1100000D, 0, hello⟩] ∧
    assembleText "S32_WRITE 1, [0xe2, 130, 0xac]" = some [⟨0x11100003, 0, [0xe2, 0x82, 0xac]⟩] ∧
    assembleText "ROTR32 1, 3" = some [⟨0x0100001F, 3, []⟩] := by
  decide +kernel

/-! ## One step of each command -/

/-- V22. -/
theorem test_rotl32 : nextIs (step (offered 1 0x0100001F 0x80000001 [])) (fun s => s.res == 0xc0000000#128) = true := by
  decide +kernel
/-- V24: OPD[63:32] is ignored. -/
theorem test_rotl32_high : nextIs (step (offered 1 0x0100000D 0xdeadbeefffffffff [])) (fun s =>
    s.res == 0xffffffff#128 && s.readStatus == 0#32) = true := by
  decide +kernel
/-- V27. -/
theorem test_rotl64 : nextIs (step (offered 1 0x0200001F 0x0123456789abcdef [])) (fun s =>
    s.res == 0xc4d5e6f78091a2b3#128) = true := by
  decide +kernel
/-- V30: ILLEGAL, RES not written. -/
theorem test_rotl64_zero : nextIs (step (offered 1 0x02000000 7 [])) (fun s =>
    s.readStatus == 1#32 && !s.resWritten) = true := by
  decide +kernel
/-- V36. -/
theorem test_fmix32 : nextIs (step (offered 1 0x03000000 0xdeadbeef [])) (fun s => s.res == 0x0de5c6a9#128) = true := by
  decide +kernel
/-- V136: STATUS is not sticky, and SRCERR keeps its token. -/
theorem test_fmix32_after_ioerr :
    nextIs (step { offered 1 0x03000000 1 [] with status := 3, srcerr := 0xdeadbeef, srcerrWritten := true })
      (fun s => s.readStatus == 0#32 && s.readSrcerr matches .ok 0xdeadbeef#32) = true := by
  decide +kernel
/-- V39e. -/
theorem test_fmix64 : nextIs (step (offered 1 0x04000000 0x0123456789abcdef [])) (fun s =>
    s.res == 0x87cbfbfe89022cea#128) = true := by
  decide +kernel
/-- V39d. -/
theorem test_fmix64_top : nextIs (step (offered 1 0x04000000 0x8000000000000000 [])) (fun s =>
    s.res == 0x8f780810af31a493#128) = true := by
  decide +kernel
/-- R135's example. -/
theorem test_s32New : nextIs (step (offered 1 0x10000000 0x9747b28c [])) (fun s =>
    s.ctxs == [⟨true, 0x9747b28c, 0x9747b28c, 0, ⟨0, 0, 0⟩, 0⟩]) = true := by
  decide +kernel
/-- D11: S32_NEW on a valid context starts again, and the other context stays. -/
theorem test_s32New_again : nextIs (step (helloState.offer ⟨0x10000000, 5, []⟩)) (fun s =>
    s.ctxs == [⟨true, 5, 5, 0, ⟨0, 0, 0⟩, 0⟩, Context.reset]) = true := by
  decide +kernel
/-- V56. -/
theorem test_s32Write : nextIs (exec (.s32Write 0 0 hello) { State.resetOf 1 with ctxs := [Context.fresh 0] })
    (fun s => s.ctxs == [helloContext] && !s.resWritten) = true := by
  decide +kernel
/-- V59: a pending tail is topped up. -/
theorem test_s32Write_tail :
    nextIs (exec (.s32Write 0 0 [0x6c, 0x6f, 0x2c, 0x20, 0x77])
      { State.resetOf 1 with ctxs := [⟨true, 0, 0, 3, ⟨0x48, 0x65, 0x6c⟩, 3⟩] })
      (fun s => s.ctxs == [⟨true, 0, 0x22b5bd6f, 8, ⟨0, 0, 0⟩, 0⟩]) = true := by
  decide +kernel
/-- V57. -/
theorem test_s32Final : nextIs (step (helloState.offer ⟨0x12000000, 0, []⟩)) (fun s =>
    s.res == 0xc0363e43#128 && s.ctxs == helloState.ctxs) = true := by
  decide +kernel
/-- V50: UNINIT, RES still unwritten. -/
theorem test_s32Final_uninit : nextIs (step (offered 1 0x12000000 0 [])) (fun s =>
    s.readStatus == 2#32 && s.readRes matches .error .unwrittenRes) = true := by
  decide +kernel
/-- V80: short answers. -/
theorem test_x86Hash :
    nextIs (step (answered (offered 1 0x20000000 0 []) [.bytes (hello.take 3), .bytes (hello.drop 3), .eos]))
      (fun s => s.res == 0x0afdd4c3402b4263f0638dfc26acdba7#128 && s.engine.isNone) = true := by
  decide +kernel
/-- V83: a block, a short answer, and a source error; what follows the error stays with the source. -/
theorem test_x86Hash_error :
    nextIs (step (answered (offered 1 0x20000000 0 [])
      [.bytes (upTo 16), .bytes [0x61, 0x62, 0x63], .error 0xdeadbeef, .eos]))
      (fun s => s.readStatus == 3#32 && s.srcerr == 0xdeadbeef#32 && s.srcPort == [.eos]) = true := by
  decide +kernel
/-- V101: a nonzero seed and uneven answers. -/
theorem test_x64Hash :
    nextIs (step (answered (offered 1 0x21000000 0x9747b28c [])
      [.bytes (upTo 5), .bytes [5, 6, 7, 8, 9], .bytes [10, 11, 12, 13, 14], .bytes [15], .bytes [16], .eos]))
      (fun s => s.res == 0xcdb46d35c186feec4bf03e9623d1ca48#128) = true := by
  decide +kernel
/-- V99: the seed is zero-extended. -/
theorem test_x64Hash_seed :
    nextIs (step (answered (offered 1 0x21000000 0x80000000 []) [.bytes hello, .eos]))
      (fun s => s.res == 0x20cd51fdd2f7a40f626b7d0fd662f480#128) = true := by
  decide +kernel
/-- V84: seven bytes to a request of six. -/
theorem test_protocol :
    nextIs (step (answered (offered 1 0x20000000 0 []) [.bytes (upTo 10), .bytes (List.replicate 7 0)]))
      (fun s => s.readStatus == 4#32 && !s.resWritten && !s.srcerrWritten) = true := by
  decide +kernel
/-- V85: ILLEGAL before any SourceRead. -/
theorem test_illegal_first : nextIs (step (answered (offered 1 0x20000001 0 []) [.eos])) (fun s =>
    s.readStatus == 1#32 && s.srcPort == [.eos]) = true := by
  decide +kernel
/-- R58: with no answer the transaction is held on a request of 16, and the next one stays on the port. -/
theorem test_held : nextIs (step ((offered 1 0x20000000 0 []).issue ⟨0x03000000, 1, []⟩)) (fun s =>
    s.pendingRequest == some 16 && s.cmdPort == [⟨0x03000000, 1, []⟩]) = true := by
  decide +kernel
/-- V134, and U16: a reset while a transaction is held. -/
theorem test_reset : nextIs (step { helloState with resetLine := true, status := 3, engine := some (.x86 ⟨⟨1, 1, 1, 1⟩, [], 0, .absorb⟩) })
    (fun s => s.engine.isNone && s.readStatus == 0#32 && s.ctxs.all (!·.valid)) = true := by
  decide +kernel
/-- A host places a word and the very next step runs it. -/
theorem test_withFetchWord : nextIs (step (State.reset.withFetchWord 32 0x03000000)) (fun s => s.resWritten) = true := by
  decide +kernel


/-! ## Witnesses: for every statement with hypotheses, states and operands that meet them together -/

/-- A check of an outcome gives the next state it checks. -/
theorem next_of_nextIs {o : Host.Outcome State Fault Refusal} {p : State → Bool} (h : nextIs o p = true) :
    ∃ t, o = .next t ∧ p t = true := by
  cases o with
  | next t => exact ⟨t, rfl, h⟩
  | fault _ => cases h
  | refused _ => cases h

theorem offered_ready (n : Nat) (cmd : Word32) (opd : Word64) (p : List Byte) :
    (offered n cmd opd p).Ready ⟨cmd, opd, p⟩ := ⟨rfl, rfl, rfl⟩

/-- A held x86-128 transaction with 3 bytes in BUF after one block. -/
def heldX86 : InFlight := .x86 ⟨⟨1, 2, 3, 4⟩, [1, 2, 3], 19, .absorb⟩

/-- A held x64-128 transaction with 15 bytes in BUF. -/
def heldX64 : InFlight := .x64 ⟨⟨1, 2⟩, upTo 15, 15, .absorb⟩

/-- A block that holds a transaction, with a context that S32_NEW has initialised. -/
def heldState : State := { helloState with engine := some heldX86 }

theorem heldX86_waiting : heldX86.waiting := ⟨rfl, by decide, by decide⟩
theorem heldX64_waiting : heldX64.waiting := ⟨rfl, by decide, by decide⟩

/-- A block with sixteen valid contexts. -/
def fullState : State := { State.resetOf 16 with ctxs := List.replicate 16 helloContext }

/-- Every field at the ends of its range, the longest payload apart (`test_wf_s32Write_longest`). -/
theorem witness_DecodeOfEncode :
    [(Instr.rotl32 1 0), .rotl32 31 7, .rotl64 1 0, .rotl64 63 7, .fmix32 0, .fmix64 7, .s32New 0 7, .s32New 15 7,
      .s32Write 0 0 [], .s32Write 15 7 hello, .s32Final 15 0, .x86Hash 7, .x64Hash 0].all (Instr.wf 16) = true := by
  decide +kernel
theorem witness_EncodeOfDecode : decode 16 ⟨0x12F00000, 7, []⟩ = .ok (.s32Final 15 7) := by decide +kernel
theorem witness_LengthFromCommandWord :
    (decode 16 ⟨0x11F00003, 7, [1, 2, 3]⟩ = .ok (.s32Write 15 7 [1, 2, 3]) ∧
      (⟨0x11F00003, 7, [1, 2, 3]⟩ : Transaction).opc = 0x11#8) ∧
    (decode 1 ⟨0x11000000, 7, []⟩ = .ok (.s32Write 0 7 []) ∧ (⟨0x11000000, 7, []⟩ : Transaction).opc = 0x11#8) ∧
    (decode 1 ⟨0x0100001F, 7, []⟩ = .ok (.rotl32 31 7) ∧ (⟨0x0100001F, 7, []⟩ : Transaction).opc ≠ 0x11#8) := by
  decide +kernel
/-- Each row of the map is selected by some transaction. -/
theorem witness_DecodeFollowsOpcodeMap :
    ((opcodeMap.zip [(⟨0x01000001, 0, []⟩ : Transaction), ⟨0x0200003F, 0, []⟩, ⟨0x03000000, 0, []⟩, ⟨0x04000000, 0, []⟩,
      ⟨0x10F00000, 0, []⟩, ⟨0x11F00001, 0, [7]⟩, ⟨0x12000000, 0, []⟩, ⟨0x20000000, 0, []⟩, ⟨0x21000000, 0, []⟩]).all
      fun x => x.1.selects 16 x.2) = true := by
  decide +kernel
/-- Each of the ten kinds of meaningless transactions, offered to an idle block. -/
theorem witness_IllegalLeavesOnlyStatus :
    ([(⟨0xFF000000, 0, []⟩ : Transaction), ⟨0x03800000, 0, []⟩, ⟨0x01000021, 0, []⟩, ⟨0x02800001, 0, []⟩,
      ⟨0x10080000, 0, []⟩, ⟨0x01000000, 0, []⟩, ⟨0x02000000, 0, []⟩, ⟨0x10100000, 0, []⟩, ⟨0x11000001, 0, []⟩,
      ⟨0x03000000, 0, [0]⟩, ⟨0, 0, []⟩].all
      fun t => !(decode 1 t).isOk) = true ∧
    (∀ cmd opd p, (offered 1 cmd opd p).Ready ⟨cmd, opd, p⟩) ∧
    (∀ t ∈ [(⟨0xFF000000, 0, []⟩ : Transaction), ⟨0x03800000, 0, []⟩, ⟨0x01000021, 0, []⟩, ⟨0x02800001, 0, []⟩,
      ⟨0x10080000, 0, []⟩, ⟨0x01000000, 0, []⟩, ⟨0x02000000, 0, []⟩, ⟨0x10100000, 0, []⟩, ⟨0x11000001, 0, []⟩,
      ⟨0x03000000, 0, [0]⟩, ⟨0, 0, []⟩], t.meaningless 1) ∧
    ¬ (⟨0x0100001F, 0, []⟩ : Transaction).meaningless 1 := by
  refine ⟨by decide +kernel, fun _ _ _ => offered_ready _ _ _ _, ?_, ?_⟩
  · unfold Transaction.meaningless
    decide +kernel
  · unfold Transaction.meaningless
    decide +kernel
theorem witness_StepRunsTheDecodedCommand :
    ((offered 16 0x11F00002 0 [1, 2]).Ready ⟨0x11F00002, 0, [1, 2]⟩ ∧
      decode (offered 16 0x11F00002 0 [1, 2]).nCtx ⟨0x11F00002, 0, [1, 2]⟩ = .ok (.s32Write 15 0 [1, 2])) ∧
    decode heldState.nCtx (Transaction.ofTableWord 32 0x12100000) = .ok (.s32Final 1 0) := by
  exact ⟨⟨offered_ready _ _ _ _, by decide +kernel⟩, by decide +kernel⟩
theorem witness_IdleAndHeldPersist :
    helloState.quiescent = true ∧
    (heldState.resetLine = false ∧ heldState.engine = some heldX86 ∧ heldX86.waiting ∧ heldState.srcPort = []) :=
  ⟨rfl, rfl, rfl, heldX86_waiting, rfl⟩
/-- V56, V57 as one sequence, with a transaction behind it. -/
theorem witness_CommandSequenceRuns :
    let is : List Instr := [.s32New 0 0, .s32Write 0 0 hello, .s32Final 0 0, .fmix64 1]
    let s : State := { State.reset with cmdPort := is.map encode ++ [⟨0, 0, []⟩] }
    s.resetLine = false ∧ s.engine = none ∧ s.cmdPort = is.map encode ++ [⟨0, 0, []⟩] ∧
    ∀ i ∈ is, i.wf s.nCtx = true ∧ i.readsSource = false := by
  refine ⟨rfl, rfl, rfl, by decide +kernel⟩
/-- R = 1, R = 31, and the three ways to be ILLEGAL. -/
theorem witness_Rotl32Command :
    (∀ t ∈ [(⟨0x01000001, 5, []⟩ : Transaction), ⟨0x0100001F, 5, []⟩],
      (offered 1 t.cmd t.opd t.payload).Ready t ∧ t.opc = 0x01#8 ∧
      (t.cmd &&& 0xFFFFFFE0#32 = 0x01000000#32 ∧ t.cmd.extractLsb' 0 5 ≠ 0#5 ∧ t.payload = [])) ∧
    (∀ t ∈ [(⟨0x01000000, 5, []⟩ : Transaction), ⟨0x0100003F, 5, []⟩, ⟨0x01000001, 5, [0]⟩],
      (offered 1 t.cmd t.opd t.payload).Ready t ∧ t.opc = 0x01#8 ∧
      ¬ (t.cmd &&& 0xFFFFFFE0#32 = 0x01000000#32 ∧ t.cmd.extractLsb' 0 5 ≠ 0#5 ∧ t.payload = [])) := by
  unfold State.Ready
  decide +kernel
theorem witness_Rotl64Command :
    (∀ t ∈ [(⟨0x02000001, 5, []⟩ : Transaction), ⟨0x0200003F, 5, []⟩],
      (offered 1 t.cmd t.opd t.payload).Ready t ∧ t.opc = 0x02#8 ∧
      (t.cmd &&& 0xFFFFFFC0#32 = 0x02000000#32 ∧ t.cmd.extractLsb' 0 6 ≠ 0#6 ∧ t.payload = [])) ∧
    (∀ t ∈ [(⟨0x02000000, 5, []⟩ : Transaction), ⟨0x0200007F, 5, []⟩, ⟨0x02000001, 5, [0]⟩],
      (offered 1 t.cmd t.opd t.payload).Ready t ∧ t.opc = 0x02#8 ∧
      ¬ (t.cmd &&& 0xFFFFFFC0#32 = 0x02000000#32 ∧ t.cmd.extractLsb' 0 6 ≠ 0#6 ∧ t.payload = [])) := by
  unfold State.Ready
  decide +kernel
theorem witness_Fmix32Command :
    ((offered 1 0x03000000 5 []).Ready ⟨0x03000000, 5, []⟩ ∧ (⟨0x03000000, 5, []⟩ : Transaction).opc = 0x03#8 ∧
      0x03000000#32 &&& 0xFFFFFFFF#32 = 0x03000000#32) ∧
    (∀ t ∈ [(⟨0x03000001, 5, []⟩ : Transaction), ⟨0x03800000, 5, []⟩, ⟨0x03000000, 5, [0]⟩],
      (offered 1 t.cmd t.opd t.payload).Ready t ∧ t.opc = 0x03#8 ∧
      (t.cmd.extractLsb' 0 24 ≠ 0#24 ∨ t.payload ≠ [])) := by
  unfold State.Ready
  decide +kernel
theorem witness_Fmix64Command :
    ((offered 1 0x04000000 5 []).Ready ⟨0x04000000, 5, []⟩ ∧ (⟨0x04000000, 5, []⟩ : Transaction).opc = 0x04#8 ∧
      0x04000000#32 &&& 0xFFFFFFFF#32 = 0x04000000#32) ∧
    (∀ t ∈ [(⟨0x04000001, 5, []⟩ : Transaction), ⟨0x04800000, 5, []⟩, ⟨0x04000000, 5, [0]⟩],
      (offered 1 t.cmd t.opd t.payload).Ready t ∧ t.opc = 0x04#8 ∧
      (t.cmd.extractLsb' 0 24 ≠ 0#24 ∨ t.payload ≠ [])) := by
  unfold State.Ready
  decide +kernel
theorem witness_RotateMovesBits :
    (1 ≤ 1 ∧ 1 ≤ 31 ∧ 0 < 32 ∧ 31 < 32 ∧ 31 ≤ 31) ∧ (1 ≤ 63 ∧ 63 ≤ 63 ∧ 0 < 64 ∧ 63 < 64) := by decide
theorem witness_PrimitiveLaws :
    (0x85ebca6b#32).toNat % 2 = 1 ∧ (1 ≤ 1 ∧ 1 ≤ 30 ∧ 1 + 30 ≤ 31 ∧ 1 ≤ 62 ∧ 1 + 62 ≤ 63) := by decide
theorem witness_ResultCommandsFrame :
    (∃ t, exec (.rotl32 31 5) helloState = .next t) ∧ (∃ t, exec (.rotl64 63 5) helloState = .next t) ∧
    (∃ t, exec (.fmix32 5) helloState = .next t) ∧ (∃ t, exec (.fmix64 5) helloState = .next t) ∧
    (∃ t, exec (.s32Final 0 5) helloState = .next t ∧ t.code = 0#3) ∧
    (∃ t, exec (.s32Final 1 5) helloState = .next t ∧ t.code ≠ 0#3) := by
  refine ⟨exec_next _ _, exec_next _ _, exec_next _ _, exec_next _ _, ?_, ?_⟩
  · obtain ⟨t, h, hp⟩ := next_of_nextIs (o := exec (.s32Final 0 5) helloState) (p := fun t => t.code == 0#3)
      (by decide +kernel)
    exact ⟨t, h, by simpa using hp⟩
  · obtain ⟨t, h, hp⟩ := next_of_nextIs (o := exec (.s32Final 1 5) helloState) (p := fun t => t.code != 0#3)
      (by decide +kernel)
    exact ⟨t, h, by simpa using hp⟩

theorem witness_S32NewCommand :
    (∀ t ∈ [(⟨0x10000000, 5, []⟩ : Transaction), ⟨0x10F00000, 5, []⟩],
      (offered 16 t.cmd t.opd t.payload).Ready t ∧ t.opc = 0x10#8 ∧ t.cmd &&& 0xFF0FFFFF#32 = 0x10000000#32 ∧
      (t.cmd.extractLsb' 20 4).toNat < (offered 16 t.cmd t.opd t.payload).nCtx ∧ t.payload = []) ∧
    (∀ t ∈ [(⟨0x10F00000, 5, []⟩ : Transaction), ⟨0x10080000, 5, []⟩, ⟨0x10000000, 5, [0]⟩],
      (offered 15 t.cmd t.opd t.payload).Ready t ∧ t.opc = 0x10#8 ∧
      ((offered 15 t.cmd t.opd t.payload).nCtx ≤ (t.cmd.extractLsb' 20 4).toNat ∨ t.cmd.extractLsb' 0 20 ≠ 0#20 ∨
        t.payload ≠ [])) := by
  unfold State.Ready
  decide +kernel
/-- A context that is missing or a length that does not match; a context not valid; a valid one, CTX = 15; every TLEN. -/
theorem witness_S32WriteCommand :
    (∀ t ∈ [(⟨0x11F00000, 5, []⟩ : Transaction), ⟨0x11000002, 5, [0]⟩, ⟨0x11000000, 5, [0]⟩],
      (offered 15 t.cmd t.opd t.payload).Ready t ∧ t.opc = 0x11#8 ∧
      ((offered 15 t.cmd t.opd t.payload).nCtx ≤ (t.cmd.extractLsb' 20 4).toNat ∨
        t.payload.length ≠ (t.cmd.extractLsb' 0 20).toNat)) ∧
    (let t : Transaction := ⟨0x11000000, 5, []⟩;
      (offered 1 t.cmd t.opd t.payload).Ready t ∧ t.opc = 0x11#8 ∧ t.payload.length = (t.cmd.extractLsb' 0 20).toNat ∧
      (offered 1 t.cmd t.opd t.payload).ctxs[(t.cmd.extractLsb' 20 4).toNat]? = some Context.reset ∧
      Context.reset.valid = false) ∧
    (let t : Transaction := ⟨0x11F0000D, 5, hello⟩;
      (fullState.offer t).Ready t ∧ t.opc = 0x11#8 ∧ t.payload.length = (t.cmd.extractLsb' 0 20).toNat ∧
      (fullState.offer t).ctxs[(t.cmd.extractLsb' 20 4).toNat]? = some helloContext ∧ helloContext.valid = true) ∧
    (∀ k ∈ [0#2, 1#2, 2#2], { helloContext with tlen := k }.tlen.toNat < 3) ∧
    { helloContext with tlen := 3#2 }.tlen.toNat = 3 := by
  unfold State.Ready
  decide +kernel
theorem witness_S32FinalCommand :
    (∀ t ∈ [(⟨0x12F00000, 5, []⟩ : Transaction), ⟨0x12000001, 5, []⟩, ⟨0x12080000, 5, []⟩, ⟨0x12000000, 5, [0]⟩],
      (offered 15 t.cmd t.opd t.payload).Ready t ∧ t.opc = 0x12#8 ∧
      ((offered 15 t.cmd t.opd t.payload).nCtx ≤ (t.cmd.extractLsb' 20 4).toNat ∨ t.cmd.extractLsb' 0 20 ≠ 0#20 ∨
        t.payload ≠ [])) ∧
    (let t : Transaction := ⟨0x12000000, 5, []⟩;
      (offered 1 t.cmd t.opd t.payload).Ready t ∧ t.opc = 0x12#8 ∧ t.cmd &&& 0xFF0FFFFF#32 = 0x12000000#32 ∧
      (offered 1 t.cmd t.opd t.payload).ctxs[(t.cmd.extractLsb' 20 4).toNat]? = some Context.reset ∧
      Context.reset.valid = false) ∧
    (let t : Transaction := ⟨0x12F00000, 5, []⟩;
      (fullState.offer t).Ready t ∧ t.opc = 0x12#8 ∧ t.cmd &&& 0xFF0FFFFF#32 = 0x12000000#32 ∧ t.payload = [] ∧
      (fullState.offer t).ctxs[(t.cmd.extractLsb' 20 4).toNat]? = some helloContext ∧ helloContext.valid = true) ∧
    ((Context.fresh 0).acc = 0#32 ∧ (Context.fresh 0).total = 0#32 ∧ (Context.fresh 0).tlen = 0#2) := by
  unfold State.Ready
  decide +kernel

theorem helloContext_tidy : helloContext.tidy := by
  intro _ j h1 h2
  have h : 1 ≤ j := h1
  interval_cases j <;> rfl

theorem witness_TopUpEquivalence : helloContext.valid = true ∧ helloContext.tidy := ⟨rfl, helloContext_tidy⟩
/-- A stream in two writes, a command to another context between them, and a new lifetime. -/
theorem witness_ContextHoldsItsStream :
    (1#4).toNat < (State.resetOf 2).nCtx ∧
    (∃ t, execAll [.s32New 1 7, .s32Write 1 0 (hello.take 3), .s32New 0 9, .s32Write 1 0 (hello.drop 3), .s32Final 1 0]
      (State.resetOf 2) = .next t) ∧
    (∃ t, execAll [.s32New 1 7, .s32Write 1 0 hello, .s32New 1 8] (State.resetOf 2) = .next t) := by
  refine ⟨by decide, ?_, ?_⟩
  · obtain ⟨t, h, -⟩ := next_of_nextIs (p := fun _ => true)
      (o := execAll [.s32New 1 7, .s32Write 1 0 (hello.take 3), .s32New 0 9, .s32Write 1 0 (hello.drop 3), .s32Final 1 0]
        (State.resetOf 2)) (by decide +kernel)
    exact ⟨t, h⟩
  · obtain ⟨t, h, -⟩ := next_of_nextIs (p := fun _ => true)
      (o := execAll [.s32New 1 7, .s32Write 1 0 hello, .s32New 1 8] (State.resetOf 2)) (by decide +kernel)
    exact ⟨t, h⟩
theorem witness_ChunkingInvariance :
    (15#4).toNat < fullState.nCtx ∧ (∀ p ∈ [hello.take 3, [], hello.drop 3], p.length ≤ 2 ^ 20 - 1) ∧
    (∀ p ∈ [hello], p.length ≤ 2 ^ 20 - 1) ∧ [hello.take 3, [], hello.drop 3].flatten = [hello].flatten := by
  decide +kernel
theorem witness_FinalizeRepeatable :
    (∃ t, exec (.s32Final 0 0) helloState = .next t) ∧ (∃ t, exec (.s32Final 1 0) helloState = .next t) :=
  ⟨exec_next _ _, exec_next _ _⟩
theorem witness_TailTestUnobservable : (Context.fresh 5).tlen = 0#2 := rfl
theorem witness_UninitLeavesOnlyStatus :
    (helloState.ctxs[(1#4).toNat]? = some Context.reset ∧ Context.reset.valid = false ∧ hello.length ≤ 2 ^ 20 - 1) ∧
    (∃ t ctx, execAll [.s32New 1 7, .s32Write 1 0 hello] (State.resetOf 2) = .next t ∧ t.ctxs[(1#4).toNat]? = some ctx ∧
      ctx.valid = true) ∧
    (∃ t ctx, execAll [.s32New 1 7, .s32Write 1 0 hello] (State.resetOf 2) = .next t ∧ t.ctxs[(0#4).toNat]? = some ctx ∧
      ctx.valid = false) := by
  refine ⟨by decide +kernel, ?_, ?_⟩
  · obtain ⟨t, h, hp⟩ := next_of_nextIs (p := fun t => (t.ctxs[(1#4).toNat]?.map (·.valid)) == some true)
      (o := execAll [.s32New 1 7, .s32Write 1 0 hello] (State.resetOf 2)) (by decide +kernel)
    obtain ⟨ctx, hc, hv⟩ := Option.map_eq_some_iff.1 (eq_of_beq hp)
    exact ⟨t, ctx, h, hc, hv⟩
  · obtain ⟨t, h, hp⟩ := next_of_nextIs (p := fun t => (t.ctxs[(0#4).toNat]?.map (·.valid)) == some false)
      (o := execAll [.s32New 1 7, .s32Write 1 0 hello] (State.resetOf 2)) (by decide +kernel)
    obtain ⟨ctx, hc, hv⟩ := Option.map_eq_some_iff.1 (eq_of_beq hp)
    exact ⟨t, ctx, h, hc, hv⟩
/-- OK and not OK, and a context on either side of the one that is named. -/
theorem witness_ContextCommandsFrame :
    (∃ t, exec (.s32New 0 7) helloState = .next t) ∧
    (∃ t, exec (.s32Write 0 7 hello) helloState = .next t ∧ helloState.ctxs[(0#4).toNat]? = some helloContext) ∧
    (∃ t, exec (.s32Write 1 7 hello) helloState = .next t ∧ t.code ≠ 0#3) ∧ 1 ≠ (0#4).toNat := by
  refine ⟨exec_next _ _, ?_, ?_, by decide⟩
  · obtain ⟨t, h⟩ := exec_next (.s32Write 0 7 hello) helloState
    exact ⟨t, h, rfl⟩
  · obtain ⟨t, h, hp⟩ := next_of_nextIs (o := exec (.s32Write 1 7 hello) helloState) (p := fun t => t.code != 0#3)
      (by decide +kernel)
    exact ⟨t, h, by simpa using hp⟩

/-- For each clause of the read loop, and BUF with 0, 3 and 15 bytes. -/
theorem witness_X86Command :
    ((offered 1 0x20000000 5 []).Ready ⟨0x20000000, 5, []⟩ ∧ (⟨0x20000000, 5, []⟩ : Transaction).opc = 0x20#8 ∧
      0x20000000#32 &&& 0xFFFFFFFF#32 = 0x20000000#32) ∧
    (∀ t ∈ [(⟨0x20000001, 5, []⟩ : Transaction), ⟨0x20800000, 5, []⟩, ⟨0x20000000, 5, [0]⟩],
      (offered 1 t.cmd t.opd t.payload).Ready t ∧ t.opc = 0x20#8 ∧
      (t.cmd.extractLsb' 0 24 ≠ 0#24 ∨ t.payload ≠ [])) ∧
    (∀ buf ∈ [[], [1, 2, 3], upTo 15],
      let f : InFlight := .x86 ⟨⟨1, 2, 3, 4⟩, buf, 19, .absorb⟩
      ∀ as ∈ [[.error 5], [.bytes (upTo 17)], [.bytes [7]], [.bytes (upTo (16 - buf.length))], [.eos], [.bytes []], []],
        (answered { helloState with engine := some f } as).resetLine = false ∧
        (answered { helloState with engine := some f } as).engine = some f ∧ buf.length < 16) ∧
    (16 - ([] : List Byte).length < (upTo 17).length ∧ 16 - (upTo 15).length < (upTo 2).length ∧
      1 ≤ ([7] : List Byte).length ∧ ([7] : List Byte).length < 16 - ([1, 2, 3] : List Byte).length ∧
      (upTo 13).length = 16 - ([1, 2, 3] : List Byte).length ∧ (upTo 1).length = 16 - (upTo 15).length) := by
  unfold State.Ready
  decide +kernel
theorem witness_X64Command :
    ((offered 1 0x21000000 5 []).Ready ⟨0x21000000, 5, []⟩ ∧ (⟨0x21000000, 5, []⟩ : Transaction).opc = 0x21#8 ∧
      0x21000000#32 &&& 0xFFFFFFFF#32 = 0x21000000#32) ∧
    (∀ t ∈ [(⟨0x21000001, 5, []⟩ : Transaction), ⟨0x21800000, 5, []⟩, ⟨0x21000000, 5, [0]⟩],
      (offered 1 t.cmd t.opd t.payload).Ready t ∧ t.opc = 0x21#8 ∧
      (t.cmd.extractLsb' 0 24 ≠ 0#24 ∨ t.payload ≠ [])) ∧
    (∀ buf ∈ [[], [1, 2, 3], upTo 15],
      let f : InFlight := .x64 ⟨⟨1, 2⟩, buf, 19, .absorb⟩
      ∀ as ∈ [[.error 5], [.bytes (upTo 17)], [.bytes [7]], [.bytes (upTo (16 - buf.length))], [.eos], [.bytes []], []],
        (answered { helloState with engine := some f } as).resetLine = false ∧
        (answered { helloState with engine := some f } as).engine = some f ∧ buf.length < 16) ∧
    (16 - ([] : List Byte).length < (upTo 17).length ∧ 16 - (upTo 15).length < (upTo 2).length ∧
      1 ≤ ([7] : List Byte).length ∧ ([7] : List Byte).length < 16 - ([1, 2, 3] : List Byte).length ∧
      (upTo 13).length = 16 - ([1, 2, 3] : List Byte).length ∧ (upTo 1).length = 16 - (upTo 15).length) ∧
    (1 ≤ (upTo 1).length ∧ (upTo 8).length ≤ 8 ∧ 9 ≤ (upTo 9).length ∧ (upTo 15).length ≤ 15) := by
  unfold State.Ready
  decide +kernel

/-- Answers that fit the requests: none, one of 16, and 3 then 13 then 1. -/
theorem witness_X86DigestOfInput :
    (∀ bss ∈ [[], [upTo 16], [upTo 3, upTo 13, upTo 1]], fitsRequests 0 bss = true ∧
      (answered helloState (bss.map .bytes ++ .bytes [] :: [.eos])).srcPort = bss.map .bytes ++ .bytes [] :: [.eos]) ∧
    Answer.isEnd (.bytes []) = true ∧ Answer.isEnd .eos = true := by
  decide +kernel
theorem witness_X64DigestOfInput :
    (∀ bss ∈ [[], [upTo 16], [upTo 3, upTo 13, upTo 1]], fitsRequests 0 bss = true ∧
      (answered helloState (bss.map .bytes ++ .eos :: [.error 5])).srcPort = bss.map .bytes ++ .eos :: [.error 5]) ∧
    Answer.isEnd (.bytes []) = true ∧ Answer.isEnd .eos = true := by
  decide +kernel
theorem witness_SplitIndependence :
    fitsRequests 0 [upTo 16, [9]] = true ∧ fitsRequests 0 [(upTo 16).take 5, (upTo 16).drop 5, [9]] = true ∧
    [upTo 16, [9]].flatten = [(upTo 16).take 5, (upTo 16).drop 5, [9]].flatten := by
  decide +kernel
/-- A source error, and an answer one byte too long, at the first request and at one for a single byte. -/
theorem witness_FailedOneShotHasNoEffect :
    Instr.readsSource (.x86Hash 5) = true ∧ Instr.readsSource (.x64Hash 5) = true ∧
    (∀ bss ∈ [[], [upTo 15]], fitsRequests 0 bss = true ∧
      (answered helloState (bss.map .bytes ++ .error 5 :: [.eos])).srcPort = bss.map .bytes ++ .error 5 :: [.eos] ∧
      16 - bss.flatten.length % 16 < (upTo (17 - bss.flatten.length)).length ∧
      (answered helloState (bss.map .bytes ++ .bytes (upTo (17 - bss.flatten.length)) :: [])).srcPort =
        bss.map .bytes ++ .bytes (upTo (17 - bss.flatten.length)) :: []) := by
  decide +kernel
theorem witness_HeldOnTheNextRequest :
    Instr.readsSource (.x86Hash 5) = true ∧ Instr.readsSource (.x64Hash 5) = true ∧
    (∀ bss ∈ [[], [upTo 15], [upTo 16]], fitsRequests 0 bss = true ∧
      (answered helloState (bss.map .bytes)).srcPort = bss.map .bytes ∧
      (answered helloState (bss.map .bytes)).resetLine = false) := by
  decide +kernel
/-- Each clause: the answers end the transaction, and they leave it held. -/
theorem witness_HeldTransactionResumes :
    (heldState.resetLine = false ∧ heldState.engine = some heldX86 ∧ heldX86.waiting ∧
      (∃ t, step { heldState with srcPort := [.eos] } = .next t ∧ t.engine = none) ∧
      (∃ t, step { heldState with srcPort := [.bytes [7]] } = .next t ∧ t.engine ≠ none)) ∧
    (helloState.resetLine = false ∧ Instr.readsSource (.x64Hash 5) = true ∧
      (∃ t, exec (.x64Hash 5) { helloState with srcPort := [.bytes [7], .error 5] } = .next t ∧ t.engine = none) ∧
      (∃ t, exec (.x64Hash 5) { helloState with srcPort := [.bytes [7]] } = .next t ∧ t.engine ≠ none)) := by
  have key : ∀ (o : Host.Outcome State Fault Refusal) (b : Bool), nextIs o (fun t => t.engine.isNone == b) = true →
      ∃ t, o = .next t ∧ t.engine.isNone = b := fun o b h =>
    let ⟨t, ho, hp⟩ := next_of_nextIs h
    ⟨t, ho, eq_of_beq hp⟩
  refine ⟨⟨rfl, rfl, heldX86_waiting, ?_, ?_⟩, rfl, rfl, ?_, ?_⟩
  · obtain ⟨t, h, hp⟩ := key _ true (by decide +kernel : nextIs (step { heldState with srcPort := [.eos] }) _ = true)
    exact ⟨t, h, by simpa using hp⟩
  · obtain ⟨t, h, hp⟩ := key _ false
      (by decide +kernel : nextIs (step { heldState with srcPort := [.bytes [7]] }) _ = true)
    exact ⟨t, h, by rintro e; simp [e] at hp⟩
  · obtain ⟨t, h, hp⟩ := key _ true
      (by decide +kernel : nextIs (exec (.x64Hash 5) { helloState with srcPort := [.bytes [7], .error 5] }) _ = true)
    exact ⟨t, h, by simpa using hp⟩
  · obtain ⟨t, h, hp⟩ := key _ false
      (by decide +kernel : nextIs (exec (.x64Hash 5) { helloState with srcPort := [.bytes [7]] }) _ = true)
    exact ⟨t, h, by rintro e; simp [e] at hp⟩
theorem witness_EngineEndsWithItsSource :
    let s := answered { helloState with engine := some heldX64 } [.bytes [7], .error 5]
    s.resetLine = false ∧ s.engine = some heldX64 ∧ .error 5 ∈ s.srcPort ∧ Answer.isLast (.error 5) = true := by
  decide +kernel
theorem witness_LittleEndianWords : 0 < 4 ∧ 3 < 4 ∧ 0 < 8 ∧ 7 < 8 := by decide
theorem witness_DigestByteOrder : 0 < 16 ∧ 15 < 16 := by decide
/-- A start that is held, one that ends with each code, and a transaction that goes on. -/
theorem witness_OneShotFrame :
    Instr.readsSource (.x86Hash 5) = true ∧ Instr.readsSource (.x64Hash 5) = true ∧
    (∀ as : List Answer, (∃ t, exec (.x86Hash 5) (answered helloState as) = .next t) ∧
      ∃ t, exec (.x64Hash 5) (answered helloState as) = .next t) ∧
    heldState.engine = some heldX86 := ⟨rfl, rfl, fun _ => ⟨exec_next _ _, exec_next _ _⟩, rfl⟩
theorem witness_CommandsCompleteOk :
    (1#5 ≠ 0#5 ∧ 31#5 ≠ 0#5 ∧ 1#6 ≠ 0#6 ∧ 63#6 ≠ 0#6 ∧ (15#4).toNat < fullState.nCtx ∧
      fullState.ctxs[(15#4).toNat]? = some helloContext ∧ helloContext.valid = true ∧ hello.length ≤ 2 ^ 20 - 1) ∧
    (Instr.readsSource (.x86Hash 5) = true ∧ Instr.readsSource (.x64Hash 5) = true ∧
      fitsRequests 0 [upTo 3, upTo 13] = true ∧ Answer.isEnd .eos = true ∧
      (answered helloState ([upTo 3, upTo 13].map .bytes ++ .eos :: [])).srcPort =
        [upTo 3, upTo 13].map .bytes ++ .eos :: []) := by
  decide +kernel
/-- V54 and V55 (ILLEGAL on a context that is not valid), V50, V83 and V84. -/
theorem witness_ErrorPriority :
    ((offered 1 0x11000005 0 [1, 2, 3, 4]).Ready ⟨0x11000005, 0, [1, 2, 3, 4]⟩ ∧
      decode (offered 1 0x11000005 0 [1, 2, 3, 4]).nCtx ⟨0x11000005, 0, [1, 2, 3, 4]⟩ = .error .payloadLength) ∧
    ((offered 1 0x12000000 0 []).Ready ⟨0x12000000, 0, []⟩ ∧
      decode (offered 1 0x12000000 0 []).nCtx ⟨0x12000000, 0, []⟩ = .ok (.s32Final 0 0) ∧
      (offered 1 0x12000000 0 []).ctxs[(0#4).toNat]? = some Context.reset ∧ Context.reset.valid = false) ∧
    ((offered 1 0x11000001 0 [1]).Ready ⟨0x11000001, 0, [1]⟩ ∧
      decode (offered 1 0x11000001 0 [1]).nCtx ⟨0x11000001, 0, [1]⟩ = .ok (.s32Write 0 0 [1])) ∧
    (let s := answered (offered 1 0x20000000 0 []) ([upTo 16, upTo 3].map .bytes ++ .error 7 :: [.bytes (upTo 17)]);
      s.Ready ⟨0x20000000, 0, []⟩ ∧ decode s.nCtx ⟨0x20000000, 0, []⟩ = .ok (.x86Hash 0) ∧
      fitsRequests 0 [upTo 16, upTo 3] = true) ∧
    (let s := answered (offered 1 0x21000000 0 []) ([upTo 10].map .bytes ++ .bytes (upTo 7) :: [.error 7]);
      s.Ready ⟨0x21000000, 0, []⟩ ∧ decode s.nCtx ⟨0x21000000, 0, []⟩ = .ok (.x64Hash 0) ∧
      fitsRequests 0 [upTo 10] = true ∧ 16 - [upTo 10].flatten.length % 16 < (upTo 7).length) := by
  unfold State.Ready
  decide +kernel
/-- A transaction that ends UNINIT, one that ends IOERR, and one that is held. -/
theorem witness_FailureLeavesStateAsBefore :
    (∃ s t : State, s.resetLine = false ∧ step s = .next t ∧ s.cmdPort ≠ [] ∧ t.engine = none ∧ t.code = 2#3) ∧
    (∃ s t : State, s.resetLine = false ∧ step s = .next t ∧ s.engine ≠ none ∧ t.engine = none ∧ t.code = 3#3) ∧
    (∃ s t : State, s.resetLine = false ∧ step s = .next t ∧ s.cmdPort ≠ [] ∧ t.engine ≠ none) := by
  refine ⟨?_, ?_, ?_⟩
  · obtain ⟨t, h, hp⟩ := next_of_nextIs (o := step (offered 1 0x12000000 0 []))
      (p := fun t => t.engine.isNone && t.code == 2#3) (by decide +kernel)
    rw [Bool.and_eq_true, beq_iff_eq, Option.isNone_iff_eq_none] at hp
    exact ⟨_, t, rfl, h, nofun, hp.1, hp.2⟩
  · obtain ⟨t, h, hp⟩ := next_of_nextIs (o := step (answered heldState [.error 7]))
      (p := fun t => t.engine.isNone && t.code == 3#3) (by decide +kernel)
    rw [Bool.and_eq_true, beq_iff_eq, Option.isNone_iff_eq_none] at hp
    exact ⟨_, t, rfl, h, nofun, hp.1, hp.2⟩
  · obtain ⟨t, h, hp⟩ := next_of_nextIs (o := step (offered 1 0x20000000 0 []))
      (p := fun t => t.engine.isSome) (by decide +kernel)
    exact ⟨_, t, rfl, h, nofun, by rintro e; simp [e] at hp⟩
theorem witness_OutcomeCodesOfCommands :
    (∀ i ∈ [(Instr.rotl32 31 5), .rotl64 63 5, .fmix32 5, .fmix64 5, .s32New 1 5, .s32Write 0 5 hello, .s32Write 1 5 [],
      .s32Final 0 5, .s32Final 1 5, .x86Hash 5, .x64Hash 5], i.wf helloState.nCtx = true) ∧
    (∀ i : Instr, ∃ t, exec i helloState = .next t) := ⟨by decide +kernel, fun _ => exec_next _ _⟩
theorem witness_OperandBitsIgnored :
    (0xdeadbeefffffffff#64).extractLsb' 0 32 = (0x00000000ffffffff#64).extractLsb' 0 32 ∧ 63#6 ≠ 0#6 ∧
    (∃ t, exec (.fmix64 5) helloState = .next t) ∧ (∃ t, exec (.rotl64 63 5) helloState = .next t) :=
  ⟨by decide +kernel, by decide, exec_next _ _, exec_next _ _⟩
theorem witness_InvariantAtReset : 1 ≤ 1 ∧ 16 ≤ 16 := by decide
theorem witness_ResetStateOfTheSpec : 1 ≤ 1 ∧ 1 ≤ 16 ∧ 1 ≤ 16 ∧ 16 ≤ 16 := by decide

/-- The invariant holds of a state other than reset's: a valid context, STATUS.CODE IOERR, a held transaction. -/
theorem witness_InvariantKeptByStep :
    let s : State := { heldState with status := 3 }
    s.Inv ∧ ∃ t, step s = .next t := by
  refine ⟨⟨by decide, by decide, by decide, ?_, ?_⟩, ⟨_, rfl⟩⟩
  · intro c hc
    rcases List.mem_cons.1 hc with rfl | hc
    · exact helloContext_tidy
    · rw [List.mem_singleton.1 hc]; intro h; cases h
  · rintro f ⟨⟩
    exact heldX86_waiting
/-- A reachable state with a valid context, and a context that differs in a tail byte from TLEN up. -/
theorem witness_ContextInvariants :
    (∃ s, Reachable 1 s ∧ ∃ c ∈ s.ctxs, c.valid = true) ∧
    (let d : Context := { helloContext with tail := ⟨0x21, 7, 9⟩ };
      d = { helloContext with tail := d.tail } ∧
      ∀ j, j < helloContext.tlen.toNat → d.tail.get j = helloContext.tail.get j) := by
  refine ⟨?_, rfl, by decide⟩
  obtain ⟨t, h, hp⟩ := next_of_nextIs (o := step ((State.resetOf 1).issue ⟨0x10000000, 5, []⟩))
    (p := fun t => t.ctxs.any (·.valid)) (by decide +kernel)
  exact ⟨t, .step (.issue _ .reset) h, by simpa using hp⟩
/-- A command on context 0 and the other contexts changed; a primitive and every context changed. -/
theorem witness_ContextIndependence :
    ((∃ t, exec (.s32Write 0 0 hello) helloState = .next t) ∧
      ∀ c, Instr.context? (.s32Write 0 0 hello) = some c → c.toNat ≠ 1) ∧
    (∀ cs ∈ [[helloContext, Context.fresh 5]], cs.length = helloState.ctxs.length ∧
      ∀ c, Instr.context? (.s32Write 0 0 hello) = some c → cs[c.toNat]? = helloState.ctxs[c.toNat]?) ∧
    ∀ c, Instr.context? (.x86Hash 0) = some c → [Context.fresh 1, Context.fresh 2][c.toNat]? = helloState.ctxs[c.toNat]? := by
  refine ⟨⟨exec_next _ _, ?_⟩, ?_, nofun⟩
  · rintro c ⟨⟩; decide
  · intro cs hcs
    rw [List.mem_singleton.1 hcs]
    refine ⟨rfl, ?_⟩
    rintro c ⟨⟩; rfl
theorem witness_OnlyResetInvalidates :
    (helloState.resetLine = false ∧ (∃ t, step (helloState.offer ⟨0x10000000, 5, []⟩) = .next t) ∧
      (helloState.offer ⟨0x10000000, 5, []⟩).resetLine = false ∧
      (helloState.offer ⟨0x10000000, 5, []⟩).ctxs[(0#4).toNat]? = some helloContext ∧ helloContext.valid = true) ∧
    helloState.assertReset.resetLine = true ∧ (∃ t, step helloState.assertReset = .next t) := by
  refine ⟨⟨rfl, ?_, rfl, rfl, rfl⟩, rfl, ⟨_, rfl⟩⟩
  obtain ⟨t, h, -⟩ := next_of_nextIs (o := step (helloState.offer ⟨0x10000000, 5, []⟩)) (p := fun _ => true)
    (by decide +kernel)
  exact ⟨t, h⟩
/-- Between transactions, and while one is held. -/
theorem witness_ResetAbandonsTheTransaction :
    helloState.assertReset.resetLine = true ∧ heldState.assertReset.resetLine = true ∧ heldState.engine ≠ none :=
  ⟨rfl, rfl, nofun⟩
theorem witness_WrittenRegistersStayReadable :
    (∃ s t : State, s.resetLine = false ∧ step s = .next t ∧ s.readRes = .ok s.res ∧ s.readSrcerr = .ok s.srcerr) ∧
    (∃ t, exec (.s32Final 0 0) helloState = .next t ∧ t.code = 0#3 ∧ t.engine = none) ∧
    (∃ t, exec (.x86Hash 0) (answered helloState [.error 7]) = .next t ∧ t.engine = none ∧ t.code = 3#3) := by
  refine ⟨⟨{ helloState with resWritten := true, srcerrWritten := true }, _, rfl, rfl, rfl, rfl⟩, ?_, ?_⟩
  · obtain ⟨t, h, hp⟩ := next_of_nextIs (o := exec (.s32Final 0 0) helloState)
      (p := fun t => t.engine.isNone && t.code == 0#3) (by decide +kernel)
    rw [Bool.and_eq_true, beq_iff_eq, Option.isNone_iff_eq_none] at hp
    exact ⟨t, h, hp.2, hp.1⟩
  · obtain ⟨t, h, hp⟩ := next_of_nextIs (o := exec (.x86Hash 0) (answered helloState [.error 7]))
      (p := fun t => t.engine.isNone && t.code == 3#3) (by decide +kernel)
    rw [Bool.and_eq_true, beq_iff_eq, Option.isNone_iff_eq_none] at hp
    exact ⟨t, h, hp.1, hp.2⟩
/-- Two states that differ in all that R250 leaves unspecified. -/
theorem witness_UnspecifiedValuesUnobservable :
    let s : State := { helloState with
      res := 5, srcerr := 6, ctxs := [{ helloContext with tail := ⟨0x21, 7, 9⟩ }, ⟨false, 1, 2, 3, ⟨4, 5, 6⟩, 3⟩] }
    s.Alike helloState ∧ s ≠ helloState ∧
    ([(⟨false, 1, 2, 3, ⟨4, 5, 6⟩, 3⟩ : Context)].length = 1 ∧
      ∀ c ∈ [(⟨false, 1, 2, 3, ⟨4, 5, 6⟩, 3⟩ : Context)], c.valid = false) := by
  refine ⟨⟨rfl, nofun, rfl, rfl, nofun, ?_, rfl, rfl, rfl, rfl⟩, by decide +kernel, rfl, by decide⟩
  exact .cons ⟨rfl, fun _ => ⟨rfl, rfl, rfl, rfl, by decide⟩⟩ (.cons ⟨rfl, nofun⟩ .nil)
theorem witness_AssemblerMatchesEncoder : 31 < 32 ∧ 63 < 64 ∧ 15 < 16 ∧ hello.length ≤ 1048575 := by decide
theorem witness_PseudoInstructions :
    15 < 16 ∧ 15 < fullState.nCtx ∧ 1 ≤ 1 ∧ 31 ≤ 31 ∧ 63 ≤ 63 := by decide

end Sys2Proof.Tests
end

section
/-! PROOFS. The bytes of a word in little-endian order, and with them the order of the digest bytes in RES (R25, R202). -/

namespace Sys2Proof.Machine

/-- The first `n` bytes of a word of any width, byte 0 first. -/
def leBytes (n : Nat) {w : Nat} (v : BitVec w) : List Byte := (List.range n).map fun j => v.extractLsb' (8 * j) 8

theorem digestBytes_eq_leBytes (res : Word128) : digestBytes res = leBytes 16 res := rfl

theorem leBytes_getElem? {n i : Nat} (h : i < n) {w : Nat} (v : BitVec w) :
    (leBytes n v)[i]? = some (v.extractLsb' (8 * i) 8) := by
  simp [leBytes, List.getElem?_range h]

/-- Of two fields side by side the bytes of the low one come first. -/
theorem leBytes_append {u v m : Nat} (n : Nat) (a : BitVec u) (b : BitVec v) (hv : v = 8 * m) :
    leBytes (m + n) (a ++ b) = leBytes m b ++ leBytes n a := by
  unfold leBytes
  rw [List.range_add, List.map_append, List.map_map]
  congr 1
  · apply List.map_congr_left
    intro j hj
    have := List.mem_range.mp hj
    exact extract_append_low a b (8 * j) (by omega)
  · apply List.map_congr_left
    intro j _
    have hs : 8 * (m + j) - v = 8 * j := by omega
    simpa [hs] using extract_append_beyond a b (8 * (m + j)) 8 (by omega)

/-- The digest bytes of the x86-128 lanes are those of `h1` to `h4`. -/
theorem X86Lanes.digestBytes_toRes (l : X86Lanes) :
    digestBytes l.toRes = leBytes 4 l.h1 ++ (leBytes 4 l.h2 ++ (leBytes 4 l.h3 ++ leBytes 4 l.h4)) := by
  calc leBytes 16 (l.h4 ++ l.h3 ++ l.h2 ++ l.h1)
      = leBytes 4 l.h1 ++ leBytes 12 (l.h4 ++ l.h3 ++ l.h2) := leBytes_append 12 _ l.h1 rfl
    _ = leBytes 4 l.h1 ++ (leBytes 4 l.h2 ++ leBytes 8 (l.h4 ++ l.h3)) := by rw [← leBytes_append 8 _ l.h2 rfl]
    _ = _ := by rw [← leBytes_append 4 l.h4 l.h3 rfl]

/-- The digest bytes of the x64-128 lanes are those of `h1` and `h2`. -/
theorem X64Lanes.digestBytes_toRes (l : X64Lanes) : digestBytes l.toRes = leBytes 8 l.h1 ++ leBytes 8 l.h2 :=
  leBytes_append 8 l.h2 l.h1 rfl

theorem extractLsb'_byte_toNat {w : Nat} (v : BitVec w) (n : Nat) :
    (v.extractLsb' (8 * n) 8).toNat = v.toNat / 2 ^ (8 * n) % 256 := by
  rw [BitVec.extractLsb'_toNat, Nat.shiftRight_eq_div_pow]

/-- Bytes read as a little-endian integer, above which the integer `z` stands. -/
theorem leBytes_foldr {w : Nat} (v : BitVec w) (n z : Nat) :
    (leBytes n v).foldr (fun b k => b.toNat + 256 * k) z = v.toNat % 2 ^ (8 * n) + 2 ^ (8 * n) * z := by
  induction n generalizing z with
  | zero => simp [leBytes, Nat.mod_one]
  | succ n ih =>
    have hsucc : leBytes (n + 1) v = leBytes n v ++ [v.extractLsb' (8 * n) 8] := by
      simp [leBytes, List.range_succ]
    have hpow : 2 ^ (8 * (n + 1)) = 2 ^ (8 * n) * 256 := by
      rw [Nat.mul_succ, Nat.pow_add]
    rw [hsucc, List.foldr_append, List.foldr_cons, List.foldr_nil, ih, extractLsb'_byte_toNat, hpow, Nat.mod_mul]
    ring

/-- Settles O39: each lane's bytes stand side by side in RES, and the sum of the bytes is an induction on their number. -/
theorem digestByteOrder : Obligations.DigestByteOrder := by
  unfold Obligations.DigestByteOrder
  refine ⟨fun res i hi => leBytes_getElem? hi res, fun l => ?_, fun l => ?_, fun res => ?_, fun l => ?_⟩
  · rw [l.digestBytes_toRes]
    simp [leBytes]
  · rw [l.digestBytes_toRes]
    simp [leBytes]
  · rw [digestBytes_eq_leBytes, leBytes_foldr, Nat.mod_eq_of_lt res.isLt, Nat.mul_zero, Nat.add_zero]
  · exact ⟨extract_append_all_low l.h2 l.h1, extract_append_high l.h2 l.h1⟩

end Sys2Proof.Machine
end

section
/-! PROOFS. What a command reads and writes of the context file: of the contexts, only the one it names (R32, R33). -/

namespace Sys2Proof.Machine

/-! ## The streaming commands, one equation a case -/

section
variable {s : State} {c : BitVec 4} (o : Word64)

theorem exec_s32New_absent (h : s.ctx? c = none) : exec (.s32New c o) s = .next (s.raise .illegal) := by
  simp [exec, execS32New, h]

theorem exec_s32New_present {x : Context} (h : s.ctx? c = some x) :
    exec (.s32New c o) s = .next ((s.setCtx c (Context.fresh (opdSeed o))).setCode .ok) := by
  simp [exec, execS32New, h]

theorem exec_s32Write_tooLong {p : List Byte} (hp : Config.payloadLimit ≤ p.length) :
    exec (.s32Write c o p) s = .next (s.raise .illegal) := by
  simp [exec, execS32Write, hp]

theorem exec_s32Write_absent (p : List Byte) (h : s.ctx? c = none) :
    exec (.s32Write c o p) s = .next (s.raise .illegal) := by
  simp [exec, execS32Write, h]

theorem exec_s32Write_invalid {p : List Byte} {x : Context} (hp : p.length < Config.payloadLimit)
    (h : s.ctx? c = some x) (hv : x.valid = false) : exec (.s32Write c o p) s = .next (s.raise .uninit) := by
  simp [exec, execS32Write, Nat.not_le.mpr hp, h, hv]

theorem exec_s32Write_valid {p : List Byte} {x : Context} (hp : p.length < Config.payloadLimit)
    (h : s.ctx? c = some x) (hv : x.valid = true) :
    exec (.s32Write c o p) s = .next ((s.setCtx c (x.write p)).setCode .ok) := by
  simp [exec, execS32Write, Nat.not_le.mpr hp, h, hv]

theorem exec_s32Final_absent (h : s.ctx? c = none) : exec (.s32Final c o) s = .next (s.raise .illegal) := by
  simp [exec, execS32Final, h]

theorem exec_s32Final_invalid {x : Context} (h : s.ctx? c = some x) (hv : x.valid = false) :
    exec (.s32Final c o) s = .next (s.raise .uninit) := by
  simp [exec, execS32Final, h, hv]

theorem exec_s32Final_valid {x : Context} (h : s.ctx? c = some x) (hv : x.valid = true) :
    exec (.s32Final c o) s = .next (s.respond (resOf32 x.digest)) := by
  simp [exec, execS32Final, h, hv]

end

/-! ## What a command writes -/

/-- `CtxWrite s i c x`: on the state `s` the command `i` writes `x` to the context `c`. -/
inductive CtxWrite (s : State) : Instr → BitVec 4 → Context → Prop
  | new {c : BitVec 4} {y : Context} (o : Word64) (hy : s.ctx? c = some y) :
      CtxWrite s (.s32New c o) c (Context.fresh (opdSeed o))
  | write {c : BitVec 4} {y : Context} {p : List Byte} (o : Word64) (hp : p.length < Config.payloadLimit)
      (hy : s.ctx? c = some y) (hv : y.valid = true) : CtxWrite s (.s32Write c o p) c (y.write p)

theorem CtxWrite.context? {s : State} {i : Instr} {c : BitVec 4} {x : Context} (h : CtxWrite s i c x) :
    i.context? = some c := by
  cases h <;> rfl

theorem CtxWrite.lt_nCtx {s : State} {i : Instr} {c : BitVec 4} {x : Context} (h : CtxWrite s i c x) :
    c.toNat < s.nCtx := by
  cases h with
  | new _ hy => exact State.lt_of_ctx? hy
  | write _ _ hy _ => exact State.lt_of_ctx? hy

/-- What a command writes to a context of a tidy file is tidy. -/
theorem CtxWrite.tidy {s : State} {i : Instr} {c : BitVec 4} {x : Context} (h : CtxWrite s i c x)
    (hs : ∀ y ∈ s.ctxs, y.tidy) : x.tidy := by
  cases h with
  | new o _ => exact Context.fresh_tidy _
  | write _ _ hy _ => exact Context.write_tidy (hs _ (List.mem_of_getElem? hy)) _

/-! ## What a command reads -/

/-- A command that does not read the source reads nothing of the state but the context it names: on two states that
agree there, it raises the same code, gives the same result, or writes the same context. -/
theorem exec_plain_local {i : Instr} (hi : i.readsSource = false) {s s' : State}
    (same : ∀ c, i.context? = some c → s'.ctx? c = s.ctx? c) :
    (∃ k, exec i s = .next (s.raise k) ∧ exec i s' = .next (s'.raise k)) ∨
    (∃ v, exec i s = .next (s.respond v) ∧ exec i s' = .next (s'.respond v)) ∨
    (∃ c x, CtxWrite s i c x ∧ exec i s = .next ((s.setCtx c x).setCode .ok) ∧
      exec i s' = .next ((s'.setCtx c x).setCode .ok)) := by
  cases i with
  | rotl32 r o =>
    by_cases hr : r = 0#5
    · exact .inl ⟨.illegal, if_pos hr, if_pos hr⟩
    · exact .inr (.inl ⟨_, if_neg hr, if_neg hr⟩)
  | rotl64 r o =>
    by_cases hr : r = 0#6
    · exact .inl ⟨.illegal, if_pos hr, if_pos hr⟩
    · exact .inr (.inl ⟨_, if_neg hr, if_neg hr⟩)
  | fmix32 o => exact .inr (.inl ⟨_, exec_fmix32 o s, exec_fmix32 o s'⟩)
  | fmix64 o => exact .inr (.inl ⟨_, exec_fmix64 o s, exec_fmix64 o s'⟩)
  | s32New c o =>
    have hc := same c rfl
    cases h : s.ctx? c with
    | none => exact .inl ⟨_, exec_s32New_absent o h, exec_s32New_absent o (hc.trans h)⟩
    | some x => exact .inr (.inr ⟨c, _, .new o h, exec_s32New_present o h, exec_s32New_present o (hc.trans h)⟩)
  | s32Write c o p =>
    have hc := same c rfl
    rcases Nat.lt_or_ge p.length Config.payloadLimit with hp | hp
    · cases h : s.ctx? c with
      | none => exact .inl ⟨_, exec_s32Write_absent o p h, exec_s32Write_absent o p (hc.trans h)⟩
      | some x =>
        cases hv : x.valid with
        | false => exact .inl ⟨_, exec_s32Write_invalid o hp h hv, exec_s32Write_invalid o hp (hc.trans h) hv⟩
        | true =>
          exact .inr (.inr ⟨c, _, .write o hp h hv, exec_s32Write_valid o hp h hv,
            exec_s32Write_valid o hp (hc.trans h) hv⟩)
    · exact .inl ⟨_, exec_s32Write_tooLong o hp, exec_s32Write_tooLong o hp⟩
  | s32Final c o =>
    have hc := same c rfl
    cases h : s.ctx? c with
    | none => exact .inl ⟨_, exec_s32Final_absent o h, exec_s32Final_absent o (hc.trans h)⟩
    | some x =>
      cases hv : x.valid with
      | false => exact .inl ⟨_, exec_s32Final_invalid o h hv, exec_s32Final_invalid o (hc.trans h) hv⟩
      | true => exact .inr (.inl ⟨_, exec_s32Final_valid o h hv, exec_s32Final_valid o (hc.trans h) hv⟩)
  | x86Hash o => cases hi
  | x64Hash o => cases hi

/-- Running an engine neither reads nor writes the context file. -/
theorem State.runEngine_with_ctxs {L : Type} (k : EngineKind L) (e : Engine L) (s : State) (cs : List Context) :
    State.runEngine k e { s with ctxs := cs } = { s.runEngine k e with ctxs := cs } := by
  unfold State.runEngine
  cases e.phase with
  | final => rfl
  | absorb =>
    simp only []
    cases (readLoop k.block e s.srcPort).1 <;> rfl

/-- A held transaction goes on without reading or writing a context. -/
theorem State.resume_with_ctxs (f : InFlight) (s : State) (cs : List Context) :
    State.resume f { s with ctxs := cs } = { s.resume f with ctxs := cs } := by
  cases f with
  | x86 e => exact State.runEngine_with_ctxs x86Kind e s cs
  | x64 e => exact State.runEngine_with_ctxs x64Kind e s cs

@[simp] theorem State.resume_ctxs (f : InFlight) (s : State) : (s.resume f).ctxs = s.ctxs := by
  cases f with
  | x86 e => exact State.runEngine_ctxs x86Kind e s
  | x64 e => exact State.runEngine_ctxs x64Kind e s

/-- A command that reads the source neither reads nor writes a context. -/
theorem exec_readsSource_with_ctxs {i : Instr} (hi : i.readsSource = true) (s : State) (cs : List Context) :
    ∃ u, exec i s = .next u ∧ exec i { s with ctxs := cs } = .next { u with ctxs := cs } ∧ u.ctxs = s.ctxs := by
  cases i with
  | x86Hash o =>
    exact ⟨_, exec_x86Hash o s, by rw [exec_x86Hash, State.runEngine_with_ctxs], State.runEngine_ctxs _ _ s⟩
  | x64Hash o =>
    exact ⟨_, exec_x64Hash o s, by rw [exec_x64Hash, State.runEngine_with_ctxs], State.runEngine_ctxs _ _ s⟩
  | _ => cases hi

/-- Everything a command can do to the context file. -/
theorem exec_ctxs_cases {i : Instr} {s t : State} (h : exec i s = .next t) :
    t.ctxs = s.ctxs ∨ ∃ c x, CtxWrite s i c x ∧ t.ctxs = s.ctxs.set c.toNat x := by
  cases hi : i.readsSource with
  | true =>
    obtain ⟨u, hu, -, hctxs⟩ := exec_readsSource_with_ctxs hi s s.ctxs
    cases hu.symm.trans h
    exact .inl hctxs
  | false =>
    rcases exec_plain_local hi (s := s) fun _ _ => rfl with ⟨k, hk, -⟩ | ⟨v, hv, -⟩ | ⟨c, x, hw, hx, -⟩
    · cases hk.symm.trans h
      exact .inl rfl
    · cases hv.symm.trans h
      exact .inl rfl
    · cases hx.symm.trans h
      exact .inr ⟨c, x, hw, rfl⟩

/-- A command changes no context but the one it names. -/
theorem exec_ctxs_other {i : Instr} {s t : State} {k : Nat} (h : exec i s = .next t)
    (hk : ∀ c, i.context? = some c → c.toNat ≠ k) : t.ctxs[k]? = s.ctxs[k]? := by
  rcases exec_ctxs_cases h with hctxs | ⟨c, x, hw, hctxs⟩
  · rw [hctxs]
  · rw [hctxs, List.getElem?_set_ne (hk c hw.context?)]

/-- With other contexts in the file beside the one it names, a command does the same to everything else and to that
one. -/
theorem exec_with_ctxs {i : Instr} {s t : State} {cs : List Context} (hlen : cs.length = s.ctxs.length)
    (same : ∀ c, i.context? = some c → cs[c.toNat]? = s.ctxs[c.toNat]?) (h : exec i s = .next t) :
    ∃ t', exec i { s with ctxs := cs } = .next t' ∧ t = { t' with ctxs := t.ctxs } ∧
      ∀ c, i.context? = some c → t'.ctxs[c.toNat]? = t.ctxs[c.toNat]? := by
  cases hi : i.readsSource with
  | true =>
    obtain ⟨u, hu, hu', hctxs⟩ := exec_readsSource_with_ctxs hi s cs
    cases hu.symm.trans h
    exact ⟨_, hu', rfl, by simpa only [hctxs] using same⟩
  | false =>
    rcases exec_plain_local hi (s' := { s with ctxs := cs }) same with
      ⟨k, hk, hk'⟩ | ⟨v, hv, hv'⟩ | ⟨c, x, hw, hx, hx'⟩
    · cases hk.symm.trans h
      exact ⟨_, hk', rfl, same⟩
    · cases hv.symm.trans h
      exact ⟨_, hv', rfl, same⟩
    · cases hx.symm.trans h
      refine ⟨_, hx', rfl, fun d hd => ?_⟩
      obtain rfl : c = d := Option.some.inj (hw.context?.symm.trans hd)
      have hlt : c.toNat < s.ctxs.length := hw.lt_nCtx
      simp [hlt, hlen]

/-- Settles O50, command by command: only the named context is read or written, and the engines touch none. -/
theorem contextIndependence : Obligations.ContextIndependence := by
  unfold Obligations.ContextIndependence
  exact ⟨fun _ _ _ _ => exec_ctxs_other, fun _ _ _ _ => exec_with_ctxs, State.resume_with_ctxs⟩

end Sys2Proof.Machine
end

section
/-! PROOFS. The context invariants in every reachable state, and that the unused tail bytes are not read (R30). -/

namespace Sys2Proof.Machine

/-! ## Tidy contexts in every reachable state -/

theorem exec_keeps_tidy {i : Instr} {s t : State} (h : exec i s = .next t) (hs : ∀ c ∈ s.ctxs, c.tidy) :
    ∀ c ∈ t.ctxs, c.tidy := by
  rcases exec_ctxs_cases h with hctxs | ⟨c, x, hw, hctxs⟩
  · rwa [hctxs]
  · intro d hd
    rw [hctxs] at hd
    rcases List.mem_or_eq_of_mem_set hd with hd | rfl
    · exact hs d hd
    · exact hw.tidy hs

theorem replicate_reset_tidy (n : Nat) : ∀ c ∈ List.replicate n Context.reset, c.tidy := by
  intro c hc
  rw [List.eq_of_mem_replicate hc]
  exact Context.reset_tidy

theorem step_keeps_tidy {s t : State} (h : step s = .next t) (hs : ∀ c ∈ s.ctxs, c.tidy) : ∀ c ∈ t.ctxs, c.tidy := by
  rcases step_cases h with ⟨-, rfl⟩ | ⟨-, f, -, rfl⟩ | ⟨-, -, -, rfl⟩ | ⟨-, -, u, i, -, -, hexec⟩ | ⟨-, -, _, _, -, -, rfl⟩
  · exact replicate_reset_tidy s.nCtx
  · rwa [State.resume_ctxs]
  · exact hs
  · exact exec_keeps_tidy hexec hs
  · exact hs

theorem Reachable.tidy {n : Nat} {s : State} (h : Reachable n s) : ∀ c ∈ s.ctxs, c.tidy := by
  induction h with
  | reset => exact replicate_reset_tidy n
  | step _ hstep ih => exact step_keeps_tidy hstep ih
  | issue _ _ ih => exact ih
  | supply _ _ ih => exact ih
  | assertReset _ ih => exact ih

/-! ## The unused tail bytes are not read -/

/-- The two contexts agree on all that absorbing bytes and taking a digest read: ACC, TOTAL, TLEN and the tail bytes
below TLEN. -/
structure Context.SameUsed (c d : Context) : Prop where
  acc : d.acc = c.acc
  total : d.total = c.total
  tlen : d.tlen = c.tlen
  tail : ∀ j, j < c.tlen.toNat → d.tail.get j = c.tail.get j

/-- TLEN does not wrap while the tail has room. -/
theorem Context.tlen_succ (c : Context) (h : c.tlen.toNat < 3) : (c.tlen + 1#2).toNat = c.tlen.toNat + 1 := by
  have hone : (1#2).toNat = 1 := rfl
  rw [BitVec.toNat_add, hone, Nat.mod_eq_of_lt (by omega)]

theorem Context.SameUsed.absorbByte {c d : Context} (h : c.SameUsed d) (b : Byte) :
    (c.absorbByte b).SameUsed (d.absorbByte b) := by
  obtain ⟨hacc, htotal, htlen, htail⟩ := h
  rcases Nat.lt_or_ge c.tlen.toNat 3 with h3 | h3
  · rw [absorbByte_tail b h3, absorbByte_tail b (by rwa [htlen])]
    refine ⟨hacc, htotal, by rw [htlen], fun j hj => ?_⟩
    simp only [c.tlen_succ h3] at hj
    rw [htlen, Tail.get_set _ _ _ _ (by omega) (by omega), Tail.get_set _ _ _ _ (by omega) (by omega)]
    split_ifs with heq
    · rfl
    · exact htail j (by omega)
  · have hfull : c.tlen.toNat = 3 := by have := c.tlen_le; omega
    rw [absorbByte_block b hfull, absorbByte_block b (by rwa [htlen])]
    refine ⟨?_, htotal, rfl, fun _ _ => rfl⟩
    simp only [hacc, htail 0 (by omega), htail 1 (by omega), htail 2 (by omega)]

theorem Context.SameUsed.absorb {c d : Context} (h : c.SameUsed d) (p : List Byte) :
    (c.absorb p).SameUsed (d.absorb p) := by
  induction p generalizing c d with
  | nil => exact h
  | cons b p ih => exact ih (h.absorbByte b)

theorem Context.SameUsed.write {c d : Context} (h : c.SameUsed d) (p : List Byte) : (c.write p).SameUsed (d.write p) := by
  obtain ⟨hacc, -, htlen, htail⟩ := h.absorb p
  exact ⟨hacc, by rw [Context.write_total, Context.write_total, h.total], htlen, htail⟩

theorem Context.SameUsed.tailword {c d : Context} (h : c.SameUsed d) : d.tailword = c.tailword := by
  unfold Context.tailword
  rw [h.tlen]
  apply List.foldl_ext
  intro k j hj
  rw [h.tail j (List.mem_range.mp hj)]

theorem Context.SameUsed.digest {c d : Context} (h : c.SameUsed d) : d.digest = c.digest := by
  simp only [Context.digest, h.acc, h.total, h.tlen, h.tailword]

/-- Settles O49: induction over how a state is reached for the invariants; for the unread bytes, absorbing keeps the
agreement of two contexts on all that a digest reads. -/
theorem contextInvariants : Obligations.ContextInvariants := by
  unfold Obligations.ContextInvariants
  refine ⟨fun n s hreach c hc => ⟨c.tlen.isLt, hreach.tidy c hc⟩, fun c d payload hd htail => ?_⟩
  have hsame : c.SameUsed d := by
    rw [hd]
    exact ⟨rfl, rfl, rfl, htail⟩
  exact (hsame.write payload).digest

end Sys2Proof.Machine
end

section
/-! PROOFS. What the decoder accepts: the rows of the opcode map (R78), and every transaction but those without meaning
(R80, R222). -/

namespace Sys2Proof

/-! ## Opcodes -/

/-- The assigned opcodes are the bytes of the nine commands. -/
theorem Opcode.mem_bytes_iff (b : BitVec 8) :
    b ∈ [0x01#8, 0x02#8, 0x03#8, 0x04#8, 0x10#8, 0x11#8, 0x12#8, 0x20#8, 0x21#8] ↔ ∃ op : Opcode, b = op.byte := by
  constructor
  · intro h
    simp only [List.mem_cons, List.not_mem_nil, or_false] at h
    rcases h with h | h | h | h | h | h | h | h | h
    exacts [⟨.rotl32, h⟩, ⟨.rotl64, h⟩, ⟨.fmix32, h⟩, ⟨.fmix64, h⟩, ⟨.s32New, h⟩, ⟨.s32Write, h⟩, ⟨.s32Final, h⟩,
      ⟨.x86Hash, h⟩, ⟨.x64Hash, h⟩]
  · rintro ⟨op, rfl⟩
    cases op <;> decide

/-! ## The rows of the opcode map -/

/-- The words a row matches are those with its opcode and with the reserved bits of its format clear. -/
theorem MapRow.match_iff {row : MapRow} (h : row ∈ opcodeMap) (t : Transaction) :
    t.cmd &&& row.mask = row.bits ↔ t.opc = row.op.byte ∧ row.op.format.reservedClear t.cmd = true := by
  simp only [opcodeMap, List.mem_cons, List.not_mem_nil, or_false] at h
  rcases h with rfl | rfl | rfl | rfl | rfl | rfl | rfl | rfl | rfl
  · exact (cmd_mask_r32 t.cmd).trans (and_congr_right' beq_iff_eq.symm)
  · exact (cmd_mask_r64 t.cmd).trans (and_congr_right' beq_iff_eq.symm)
  · exact (cmd_mask_n t.cmd .fmix32).trans (and_congr_right' beq_iff_eq.symm)
  · exact (cmd_mask_n t.cmd .fmix64).trans (and_congr_right' beq_iff_eq.symm)
  · exact (cmd_mask_c t.cmd .s32New).trans (and_congr_right' beq_iff_eq.symm)
  · exact (cmd_mask_cl t.cmd).trans (and_iff_left rfl).symm
  · exact (cmd_mask_c t.cmd .s32Final).trans (and_congr_right' beq_iff_eq.symm)
  · exact (cmd_mask_n t.cmd .x86Hash).trans (and_congr_right' beq_iff_eq.symm)
  · exact (cmd_mask_n t.cmd .x64Hash).trans (and_congr_right' beq_iff_eq.symm)

/-- A row's extra condition is the rest of what the decoder checks for its format. -/
theorem Opcode.condition_iff (op : Opcode) (nCtx : Nat) (t : Transaction) :
    op.condition nCtx t = true ↔ op.format.rotateNonzero t = true ∧ op.format.ctxExists nCtx t = true ∧
      op.format.payloadFits t = true := by
  cases op <;>
    simp [Opcode.condition, Opcode.format, Format.rotateNonzero, Format.ctxExists, Format.payloadFits]

/-- Two rows bear one mnemonic exactly when they are of one command. -/
theorem opcodeMap_mnemonic_eq_iff :
    ∀ row ∈ opcodeMap, ∀ row' ∈ opcodeMap, row.mnemonic = row'.mnemonic ↔ row.op = row'.op := by
  decide

/-- Every command has a row of the opcode map, which bears its mnemonic. -/
theorem Opcode.exists_row (op : Opcode) (t : Transaction) :
    ∃ row ∈ opcodeMap, row.op = op ∧ row.mnemonic = (op.instr t).mnemonic := by
  cases op <;> simp [opcodeMap, Opcode.instr, Instr.mnemonic]

/-- A command bears the mnemonic of the row of its own opcode and of no other. -/
theorem Opcode.instr_mnemonic_eq_iff {row : MapRow} (hrow : row ∈ opcodeMap) (op : Opcode) (t : Transaction) :
    (op.instr t).mnemonic = row.mnemonic ↔ op = row.op := by
  obtain ⟨row', hrow', rfl, hm⟩ := op.exists_row t
  rw [← hm]
  exact opcodeMap_mnemonic_eq_iff row' hrow' row hrow

/-- Settles O5: what a row matches and its extra condition are together the checks of the decoder, and the mnemonic
tells the row. -/
theorem decodeFollowsOpcodeMap : Obligations.DecodeFollowsOpcodeMap := by
  unfold Obligations.DecodeFollowsOpcodeMap
  refine ⟨rfl, fun nCtx t row hrow => ?_⟩
  rw [MapRow.match_iff hrow, Opcode.condition_iff]
  constructor
  · rintro ⟨i, hi, hm⟩
    obtain ⟨op, hopc, hres, hrot, hctx, hpay, rfl⟩ := decode_eq_ok.mp hi
    obtain rfl := (Opcode.instr_mnemonic_eq_iff hrow op t).mp hm
    exact ⟨⟨hopc, hres⟩, hrot, hctx, hpay⟩
  · rintro ⟨⟨hopc, hres⟩, hrot, hctx, hpay⟩
    exact ⟨_, decode_ok_of_opc hopc hres hrot hctx hpay, (Opcode.instr_mnemonic_eq_iff hrow _ t).mpr rfl⟩

/-! ## Transactions with no meaning -/

/-- A transaction whose opcode is assigned is meaningless exactly when one of the decoder's checks fails. -/
theorem meaningless_iff_of_opc {t : Transaction} {op : Opcode} (nCtx : Nat) (h : t.opc = op.byte) :
    t.meaningless nCtx ↔ ¬ (op.format.reservedClear t.cmd = true ∧ op.format.rotateNonzero t = true ∧
      op.format.ctxExists nCtx t = true ∧ op.format.payloadFits t = true) := by
  unfold Transaction.meaningless
  rw [h]
  cases op <;>
    simp [Opcode.byte, Opcode.format, Format.reservedClear, Format.rotateNonzero, Format.ctxExists,
      Format.payloadFits, -not_and, not_and_or]

/-- The decoder gives a command for every transaction but the meaningless ones. -/
theorem decode_ok_iff (nCtx : Nat) (t : Transaction) : (∃ i, decode nCtx t = .ok i) ↔ ¬ t.meaningless nCtx := by
  constructor
  · rintro ⟨i, hi⟩
    obtain ⟨op, hopc, hres, hrot, hctx, hpay, -⟩ := decode_eq_ok.mp hi
    rw [meaningless_iff_of_opc nCtx hopc, not_not]
    exact ⟨hres, hrot, hctx, hpay⟩
  · intro hn
    have hassigned : ∃ op : Opcode, t.opc = op.byte :=
      (Opcode.mem_bytes_iff t.opc).mp (by_contra fun hu => hn (.inl hu))
    obtain ⟨op, hopc⟩ := hassigned
    rw [meaningless_iff_of_opc nCtx hopc, not_not] at hn
    obtain ⟨hres, hrot, hctx, hpay⟩ := hn
    exact ⟨_, decode_ok_of_opc hopc hres hrot hctx hpay⟩

/-- A meaningless transaction that the block accepts raises ILLEGAL. -/
theorem accept_meaningless {s : Machine.State} {t : Transaction} (h : t.meaningless s.nCtx) :
    s.accept t = .next (s.raise .illegal) := by
  rcases decode_cases s.nCtx t with hok | ⟨why, hwhy⟩
  · exact absurd h ((decode_ok_iff s.nCtx t).mp hok)
  · exact Machine.accept_error hwhy

/-- Settles O6: the decoder rejects exactly the meaningless transactions, and raising ILLEGAL writes STATUS only. -/
theorem illegalLeavesOnlyStatus : Obligations.IllegalLeavesOnlyStatus := by
  unfold Obligations.IllegalLeavesOnlyStatus
  refine ⟨fun s t hready ht => ?_, fun nCtx t => (decode_ok_iff nCtx t).mpr, by decide +kernel, fun nCtx t ht => ?_⟩
  · rw [Machine.step_ready hready]
    exact accept_meaningless ht
  · left
    rw [Transaction.opc, ht]
    decide

end Sys2Proof
end

section
/-! PROOFS. Decoding the transaction of a command gives the command back, and the assembler's streaming lines are
transactions of commands (sections 2 to 4 and 6 of 30_encoding.md). -/

namespace Sys2Proof

/-! ## Decoding what was encoded -/

theorem Laws.Encoding.statement (i : Instr) : Laws.Encoding.Statement i := by
  cases i with
  | rotl32 r o => exact Laws.Encoding.rotl32 r o
  | rotl64 r o => exact Laws.Encoding.rotl64 r o
  | fmix32 o => exact Laws.Encoding.fmix32 o
  | fmix64 o => exact Laws.Encoding.fmix64 o
  | s32New c o => exact Laws.Encoding.s32New c o
  | s32Write c o p => exact Laws.Encoding.s32Write c o p
  | s32Final c o => exact Laws.Encoding.s32Final c o
  | x86Hash o => exact Laws.Encoding.x86Hash o
  | x64Hash o => exact Laws.Encoding.x64Hash o

/-- The fields and operands read from an encoded command are the command's own. -/
theorem opcode_instr_encode (i : Instr) : i.opcode.instr (encode i) = i := by
  cases i <;>
    simp [Instr.opcode, Opcode.instr, encode, Transaction.rot32, Transaction.rot64, Transaction.ctx, commandWord_field]

/-- The transaction of a well-formed command meets the extra condition of its row. -/
theorem condition_encode {nCtx : Nat} {i : Instr} (h : i.wf nCtx = true) :
    i.opcode.condition nCtx (encode i) = true := by
  cases i with
  | rotl32 _ _ | rotl64 _ _ | s32New _ _ | s32Final _ _ =>
    simpa [Instr.wf, Instr.opcode, Opcode.condition, encode, Transaction.rot32, Transaction.rot64, Transaction.ctx,
      commandWord_field, -BitVec.extractLsb'_toNat] using h
  | s32Write c o p =>
    simp only [Instr.wf, Bool.and_eq_true, decide_eq_true_eq] at h
    obtain ⟨hc, hp⟩ := h
    have hlen : p.length % 1048576 = p.length := Nat.mod_eq_of_lt hp
    simp [Instr.opcode, Opcode.condition, encode, Transaction.ctx, Transaction.len, commandWord_field, hc, hlen,
      -BitVec.extractLsb'_toNat]
  | fmix32 _ | fmix64 _ | x86Hash _ | x64Hash _ => rfl

theorem decode_encode {nCtx : Nat} {i : Instr} (h : i.wf nCtx = true) : decode nCtx (encode i) = .ok i := by
  obtain ⟨hopc, hres, -⟩ := Laws.Encoding.statement i
  obtain ⟨hrot, hctx, hpay⟩ := (Opcode.condition_iff _ _ _).mp (condition_encode h)
  rw [decode_ok_of_opc hopc hres hrot hctx hpay, opcode_instr_encode]

end Sys2Proof

namespace Sys2Proof.Machine

/-! ## The assembler's streaming lines -/

/-- R81's sum of opcode, context and length is the word of formats C and CL. -/
theorem commandWord_bodyC_eq_sum (op : Opcode) {c len : Nat} (hc : c < 16) (hlen : len < Config.payloadLimit) :
    commandWord op (bodyC (BitVec.ofNat 4 c) (BitVec.ofNat 20 len)) =
      BitVec.ofNat 32 (op.byte.toNat * 2 ^ 24) + BitVec.ofNat 32 c <<< 20 + BitVec.ofNat 32 len := by
  have hbody : (bodyC (BitVec.ofNat 4 c) (BitVec.ofNat 20 len)).toNat = c * 2 ^ 20 + len := by
    unfold bodyC
    rw [append_toNat, BitVec.toNat_ofNat, BitVec.toNat_ofNat, Nat.mod_eq_of_lt hc, Nat.mod_eq_of_lt hlen]
  have hshift : BitVec.ofNat 32 c <<< 20 = BitVec.ofNat 32 (c * 2 ^ 20) := by
    rw [BitVec.shiftLeft_eq_mul_twoPow, BitVec.ofNat_mul]
    rfl
  rw [commandWord_eq_ofNat, hbody, hshift, ← Nat.add_assoc, BitVec.ofNat_add, BitVec.ofNat_add]

theorem asmNew_eq_encode {c : Nat} (hc : c < 16) (seed : Word32) :
    asmNew c seed = encode (.s32New (BitVec.ofNat 4 c) (seed.setWidth 64)) := by
  have hword := commandWord_bodyC_eq_sum .s32New hc (len := 0) (by decide)
  rw [BitVec.add_zero] at hword
  exact congrArg (Transaction.mk · (seed.setWidth 64) []) hword.symm

theorem asmWrite_eq_encode {c : Nat} (hc : c < 16) {bytes : List Byte} (h : bytes.length < Config.payloadLimit) :
    asmWrite c bytes = encode (.s32Write (BitVec.ofNat 4 c) 0 bytes) :=
  congrArg (Transaction.mk · 0#64 bytes) (commandWord_bodyC_eq_sum .s32Write hc h).symm

theorem asmFinal_eq_encode {c : Nat} (hc : c < 16) : asmFinal c = encode (.s32Final (BitVec.ofNat 4 c) 0) := by
  have hword := commandWord_bodyC_eq_sum .s32Final hc (len := 0) (by decide)
  rw [BitVec.add_zero] at hword
  exact congrArg (Transaction.mk · 0#64 []) hword.symm

end Sys2Proof.Machine
end

section
/-! PROOFS. A context written since its S32_NEW holds its stream, and its digest is the stream's hash32 (R139). -/

namespace Sys2Proof.Machine

/-! ## The accumulator of a stream -/

/-- A byte of a byte list with one more byte at its end. -/
theorem getD_snoc (S : List Byte) (b : Byte) (i : Nat) :
    (S ++ [b]).getD i 0#8 = if i = S.length then b else S.getD i 0#8 := by
  rcases Nat.lt_trichotomy i S.length with h | h | h
  · rw [List.getD_append _ _ _ _ h, if_neg (by omega)]
  · simp [h, List.getD_eq_getElem?_getD]
  · rw [getD_beyond _ _ (by simp; omega), getD_beyond S _ (by omega), if_neg (by omega)]

/-- The complete words of a stream are those of a longer one. -/
theorem foldl_words_snoc (S : List Byte) (b : Byte) (seed : Word32) {n : Nat} (h : 4 * n ≤ S.length) :
    (List.range n).foldl (fun acc i => s32Block acc (word32At (S ++ [b]) i)) seed =
      (List.range n).foldl (fun acc i => s32Block acc (word32At S i)) seed := by
  apply List.foldl_ext
  intro acc i hi
  have := List.mem_range.mp hi
  rw [word32At_append S [b] i (by omega)]

/-- A byte that completes no word leaves the accumulator alone. -/
theorem streamAcc_snoc_tail {S : List Byte} (b : Byte) (seed : Word32) (h : S.length % 4 < 3) :
    streamAcc (S ++ [b]) seed = streamAcc S seed := by
  have hq : (S ++ [b]).length / 4 = S.length / 4 := by simp; omega
  unfold streamAcc
  rw [hq, foldl_words_snoc S b seed (by omega)]

/-- A byte that completes a word puts it through the block step. -/
theorem streamAcc_snoc_block {S : List Byte} (b : Byte) (seed : Word32) (h : S.length % 4 = 3) :
    streamAcc (S ++ [b]) seed = s32Block (streamAcc S seed) (word32At (S ++ [b]) (S.length / 4)) := by
  have hq : (S ++ [b]).length / 4 = S.length / 4 + 1 := by simp; omega
  unfold streamAcc
  rw [hq, List.range_succ, List.foldl_append, foldl_words_snoc S b seed (by omega), List.foldl_cons, List.foldl_nil]

/-! ## The context of a stream -/

theorem contextOf_acc (seed : Word32) (S : List Byte) : (contextOf seed S).acc = streamAcc S seed := rfl

@[simp] theorem contextOf_tlen (seed : Word32) (S : List Byte) : (contextOf seed S).tlen.toNat = S.length % 4 := by
  simp [contextOf]

theorem contextOf_tail_get (seed : Word32) (S : List Byte) {j : Nat} (h : j ≤ 2) :
    (contextOf seed S).tail.get j = S.getD (4 * (S.length / 4) + j) 0#8 :=
  Tail.get_mk (fun j => S.getD (4 * (S.length / 4) + j) 0#8) j h

theorem contextOf_total_snoc (seed : Word32) (S : List Byte) (b : Byte) :
    (contextOf seed (S ++ [b])).total = (contextOf seed S).total + BitVec.ofNat 32 1 := by
  simp only [contextOf, List.length_append, List.length_singleton, BitVec.ofNat_add]

/-- The word a byte completes is the three tail bytes and that byte. -/
theorem contextOf_last_word (seed : Word32) {S : List Byte} (b : Byte) (h : S.length % 4 = 3) :
    word32At (S ++ [b]) (S.length / 4) = le32 ((contextOf seed S).tail.get 0) ((contextOf seed S).tail.get 1)
      ((contextOf seed S).tail.get 2) b := by
  rw [contextOf_tail_get _ _ (by omega), contextOf_tail_get _ _ (by omega), contextOf_tail_get _ _ (by omega),
    Nat.add_zero]
  unfold word32At
  rw [getD_snoc, getD_snoc, getD_snoc, getD_snoc, if_neg (by omega), if_neg (by omega), if_neg (by omega),
    if_pos (by omega)]

/-- Two contexts are equal when their fields are, tail byte by tail byte. -/
theorem Context.eq_of_fields {c d : Context} (hvalid : c.valid = d.valid) (hseed : c.seed = d.seed)
    (hacc : c.acc = d.acc) (htotal : c.total = d.total) (htail : ∀ j, j ≤ 2 → c.tail.get j = d.tail.get j)
    (htlen : c.tlen.toNat = d.tlen.toNat) : c = d := by
  have htail := Tail.eq_of_get htail
  have htlen := BitVec.eq_of_toNat_eq htlen
  cases c; cases d
  simp_all

/-- A byte that completes no word goes to the tail. -/
theorem contextOf_snoc_tail (seed : Word32) {S : List Byte} (b : Byte) (h : S.length % 4 < 3) :
    contextOf seed (S ++ [b]) = (contextOf seed S).write [b] := by
  have hlen : (S ++ [b]).length = S.length + 1 := List.length_append
  have hq : (S ++ [b]).length / 4 = S.length / 4 := by omega
  have hlt : (contextOf seed S).tlen.toNat < 3 := by rwa [contextOf_tlen]
  rw [Context.write, Context.absorb_cons, Context.absorb_nil, Context.absorbByte_tail b hlt]
  refine Context.eq_of_fields rfl rfl ?_ ?_ ?_ ?_
  · rw [contextOf_acc, streamAcc_snoc_tail b seed h, contextOf_acc]
  · exact contextOf_total_snoc seed S b
  · intro j hj
    rw [contextOf_tail_get _ _ hj, hq, getD_snoc, Tail.get_set _ _ _ _ (by omega) hj, contextOf_tail_get _ _ hj,
      contextOf_tlen]
    exact if_congr (by omega) rfl rfl
  · rw [Context.tlen_succ _ hlt, contextOf_tlen, contextOf_tlen]
    omega

/-- A byte that completes a word empties the tail. -/
theorem contextOf_snoc_block (seed : Word32) {S : List Byte} (b : Byte) (h : S.length % 4 = 3) :
    contextOf seed (S ++ [b]) = (contextOf seed S).write [b] := by
  have hlen : (S ++ [b]).length = S.length + 1 := List.length_append
  have hfull : (contextOf seed S).tlen.toNat = 3 := by rwa [contextOf_tlen]
  rw [Context.write, Context.absorb_cons, Context.absorb_nil, Context.absorbByte_block b hfull]
  refine Context.eq_of_fields rfl rfl ?_ ?_ ?_ ?_
  · rw [contextOf_acc, streamAcc_snoc_block b seed h, contextOf_last_word seed b h, contextOf_acc]
  · exact contextOf_total_snoc seed S b
  · intro j hj
    rw [contextOf_tail_get _ _ hj, Tail.zero_get]
    exact getD_beyond _ _ (by omega)
  · rw [contextOf_tlen]
    show _ = 0
    omega

/-- One more byte of the stream. -/
theorem contextOf_snoc (seed : Word32) (S : List Byte) (b : Byte) :
    contextOf seed (S ++ [b]) = (contextOf seed S).write [b] := by
  rcases Nat.lt_or_ge (S.length % 4) 3 with h | h
  · exact contextOf_snoc_tail seed b h
  · exact contextOf_snoc_block seed b (by omega)

/-- Writing bytes to the context of a stream gives the context of the longer stream. -/
theorem contextOf_write (seed : Word32) (S p : List Byte) : (contextOf seed S).write p = contextOf seed (S ++ p) := by
  induction p generalizing S with
  | nil => simp [Context.write]
  | cons b p ih =>
    rw [← List.singleton_append, Context.write_append, ← contextOf_snoc, ih, List.append_assoc]

theorem contextOf_tailword (seed : Word32) (S : List Byte) : (contextOf seed S).tailword = streamTailWord S := by
  unfold Context.tailword streamTailWord
  rw [contextOf_tlen]
  apply List.foldl_ext
  intro k j hj
  have := List.mem_range.mp hj
  rw [contextOf_tail_get seed S (by omega)]

/-- The digest of the context that holds a stream is the stream's hash32. -/
theorem contextOf_digest (seed : Word32) (S : List Byte) : (contextOf seed S).digest = hash32 S seed := by
  unfold Context.digest hash32
  rw [contextOf_tlen, contextOf_tailword]
  rfl

/-- After S32_NEW and writes the context is that of the stream written. -/
theorem fresh_write (seed : Word32) (S : List Byte) : (Context.fresh seed).write S = contextOf seed S :=
  contextOf_write seed [] S

end Sys2Proof.Machine
end

section
/-! PROOFS. The pseudo-instructions: what they expand to and what the expansion does (R82). -/

namespace Sys2Proof.Machine

/-! ## Sequences of commands -/

theorem execAll_cons {i : Instr} {s t : State} (h : exec i s = .next t) (is : List Instr) :
    execAll (i :: is) s = execAll is t := by
  simp [execAll, h]

theorem execAll_append {is : List Instr} {s t : State} (h : execAll is s = .next t) (js : List Instr) :
    execAll (is ++ js) s = execAll js t := by
  induction is generalizing s with
  | nil =>
    cases h
    rfl
  | cons i is ih =>
    obtain ⟨u, hu⟩ := exec_next i s
    rw [execAll_cons hu] at h
    rw [List.cons_append, execAll_cons hu, ih h]

/-- Consecutive writes to a valid context append their payloads in order. -/
theorem execAll_writes {s : State} {c : BitVec 4} {x : Context} (o : Word64) {ps : List (List Byte)}
    (hps : ∀ p ∈ ps, p.length < Config.payloadLimit) (hx : s.ctx? c = some x) (hv : x.valid = true) :
    ∃ t, execAll (ps.map (.s32Write c o ·)) s = .next t ∧ t.ctx? c = some (x.write ps.flatten) := by
  induction ps generalizing s x with
  | nil => exact ⟨s, rfl, by simpa [Context.write] using hx⟩
  | cons p ps ih =>
    obtain ⟨hp, hps⟩ := List.forall_mem_cons.mp hps
    have hnext : ((s.setCtx c (x.write p)).setCode .ok).ctx? c = some (x.write p) :=
      State.setCtx_ctx?_self _ (State.lt_of_ctx? hx)
    obtain ⟨t, ht, htc⟩ := ih hps hnext (by rwa [Context.write_valid])
    refine ⟨t, ?_, ?_⟩
    · rw [List.map_cons, execAll_cons (exec_s32Write_valid o hp hx hv), ht]
    · rw [htc, List.flatten_cons, Context.write_append]

/-- A context started, written and finalized: RES holds the hash of the payloads' bytes. -/
theorem execAll_hash {s : State} {c : BitVec 4} (hc : c.toNat < s.nCtx) (o o' o'' : Word64) {ps : List (List Byte)}
    (hps : ∀ p ∈ ps, p.length < Config.payloadLimit) :
    ∃ t, execAll (.s32New c o :: ps.map (.s32Write c o' ·) ++ [.s32Final c o'']) s = .next t ∧ t.code = 0#3 ∧
      t.res = resOf32 (hash32 ps.flatten (opdSeed o)) := by
  obtain ⟨x, hx⟩ := State.ctx?_of_lt hc
  have hnew : ((s.setCtx c (Context.fresh (opdSeed o))).setCode .ok).ctx? c = some (Context.fresh (opdSeed o)) :=
    State.setCtx_ctx?_self _ hc
  obtain ⟨u, hu, huc⟩ := execAll_writes o' hps hnew rfl
  rw [fresh_write] at huc
  refine ⟨u.respond (resOf32 (hash32 ps.flatten (opdSeed o))), ?_, State.respond_code _ _, State.respond_res _ _⟩
  rw [List.cons_append, execAll_cons (exec_s32New_present o hx), execAll_append hu,
    execAll_cons (exec_s32Final_valid o'' huc rfl), contextOf_digest]
  rfl

/-! ## The pieces of a long payload -/

theorem splitPayload_flatten (bytes : List Byte) : (splitPayload bytes).flatten = bytes :=
  (splitAtMost_spec maxPayload bytes.length (by decide) bytes (by omega)).1

theorem splitPayload_length_le (bytes : List Byte) : ∀ p ∈ splitPayload bytes, p.length ≤ 1048575 :=
  (splitAtMost_spec maxPayload bytes.length (by decide) bytes (by omega)).2

/-- A payload that fits one S32_WRITE is not cut. -/
theorem splitPayload_of_le {bytes : List Byte} (h : bytes.length ≤ 1048575) : splitPayload bytes = [bytes] := by
  unfold splitPayload
  cases bytes.length with
  | zero => rfl
  | succ n => exact if_pos h

/-! ## Rotate right -/

/-- A rotate left by the width less `r` is a rotate right by `r`. -/
theorem rotateRight_eq_shifts {w : Nat} (x : BitVec w) {r : Nat} (h : r < w) :
    x <<< (w - r) ||| x >>> (w - (w - r)) = x.rotateRight r := by
  rw [BitVec.rotateRight_def, Nat.mod_eq_of_lt h, Nat.sub_sub_self h.le, BitVec.or_comm]

/-! ## S32_HASH -/

/-- The low bits of a widened word are the word. -/
theorem extract_setWidth_low {w n : Nat} (h : w ≤ n) (v : BitVec w) : (v.setWidth n).extractLsb' 0 w = v := by
  ext i hi
  simp [hi, show i < n by omega]

/-- The commands S32_HASH stands for. -/
def hashInstrs (c : BitVec 4) (seed : Word32) (bytes : List Byte) : List Instr :=
  .s32New c (seed.setWidth 64) :: (splitPayload bytes).map (.s32Write c 0 ·) ++ [.s32Final c 0]

/-- The transactions of S32_HASH are those of its commands. -/
theorem assemble_s32Hash {c : Nat} (hc : c < 16) (seed : Word32) (bytes : List Byte) :
    assemble (.s32Hash c seed bytes) = (hashInstrs (BitVec.ofNat 4 c) seed bytes).map encode := by
  have hwrites : (splitPayload bytes).map (asmWrite c) =
      ((splitPayload bytes).map (.s32Write (BitVec.ofNat 4 c) 0 ·)).map encode := by
    rw [List.map_map]
    exact List.map_congr_left fun p hp =>
      asmWrite_eq_encode hc (Nat.lt_succ_of_le (splitPayload_length_le bytes p hp))
  simp only [assemble, hashInstrs, List.map_append, List.map_cons, List.map_nil, asmNew_eq_encode hc, hwrites,
    asmFinal_eq_encode hc]

theorem hashInstrs_wf {nCtx : Nat} {c : BitVec 4} (hc : c.toNat < nCtx) (seed : Word32) (bytes : List Byte) :
    ∀ i ∈ hashInstrs c seed bytes, i.wf nCtx = true := by
  intro i hi
  simp only [hashInstrs, List.mem_append, List.mem_cons, List.mem_map, List.not_mem_nil, or_false] at hi
  rcases hi with (rfl | ⟨p, hp, rfl⟩) | rfl
  · exact decide_eq_true hc
  · have hlen := splitPayload_length_le bytes p hp
    exact Bool.and_eq_true_iff.mpr ⟨decide_eq_true hc, decide_eq_true (Nat.lt_succ_of_le hlen)⟩
  · exact decide_eq_true hc

/-- Settles O56: S32_HASH is its commands' transactions, and those leave the context of the stream of the pieces, whose
digest is the hash; a piece is cut by length; and a rotate right is the two shifts of a rotate left. -/
theorem pseudoInstructions : Obligations.PseudoInstructions := by
  unfold Obligations.PseudoInstructions
  refine ⟨fun c seed bytes => rfl, fun s c seed bytes hc16 hc => ?_, fun c bytes => ?_, fun r x hr1 hr => ⟨rfl, ?_⟩,
    fun r x hr1 hr => ⟨rfl, ?_⟩⟩
  · have hlt : (BitVec.ofNat 4 c).toNat < s.nCtx := by rwa [BitVec.toNat_ofNat, Nat.mod_eq_of_lt hc16]
    obtain ⟨t, ht, hcode, hres⟩ := execAll_hash hlt (seed.setWidth 64) 0 0
      fun p hp => Nat.lt_succ_of_le (splitPayload_length_le bytes p hp)
    refine ⟨hashInstrs (BitVec.ofNat 4 c) seed bytes, t, ?_, ht, hcode, ?_⟩
    · rw [assemble_s32Hash hc16, List.map_map]
      exact List.map_congr_left fun i hi => decode_encode (hashInstrs_wf hlt seed bytes i hi)
    · have hseed : opdSeed (seed.setWidth 64) = seed := extract_setWidth_low (by decide) seed
      rw [hres, splitPayload_flatten, hseed]
      exact extract_setWidth_low (by decide) _
  · exact ⟨splitPayload bytes, rfl, splitPayload_flatten bytes, splitPayload_length_le bytes, splitPayload_of_le⟩
  · exact rotateRight_eq_shifts x (by omega)
  · exact rotateRight_eq_shifts x (by omega)

end Sys2Proof.Machine
end

section
/-! PROOFS. The laws of the primitives (R109): at every width, multiplication by an odd word and xor-shift are
bijections, and the rotates compose. -/

namespace Sys2Proof.Machine

/-! ## Bijections on words -/

/-- An odd factor is invertible modulo `2 ^ w`, so it can be cancelled. -/
theorem mul_odd_bijective {w : Nat} {m : BitVec w} (hm : m.toNat % 2 = 1) :
    Function.Bijective fun h : BitVec w => h * m := by
  refine Finite.injective_iff_bijective.mp fun x y hxy => ?_
  have hcoprime : Nat.gcd (2 ^ w) m.toNat = 1 := Nat.Coprime.pow_left w (Nat.coprime_two_left.mpr (Nat.odd_iff.mpr hm))
  have hmul : x.toNat * m.toNat % 2 ^ w = y.toNat * m.toNat % 2 ^ w := by
    simpa only [BitVec.toNat_mul] using congrArg BitVec.toNat hxy
  have hmod : x.toNat ≡ y.toNat [MOD 2 ^ w] := Nat.ModEq.cancel_right_of_coprime hcoprime hmul
  exact BitVec.eq_of_toNat_eq (hmod.eq_of_lt_of_lt x.isLt y.isLt)

/-- Only zero is unchanged by a shift to the right. -/
theorem eq_zero_of_eq_ushiftRight {w s : Nat} (hs : 1 ≤ s) {d : BitVec w} (h : d = d >>> s) : d = 0#w := by
  have hdiv : d.toNat = d.toNat / 2 ^ s := by
    simpa only [BitVec.toNat_ushiftRight, Nat.shiftRight_eq_div_pow] using congrArg BitVec.toNat h
  have hzero : d.toNat = 0 := by
    by_contra hne
    have hlt := Nat.div_lt_self (Nat.pos_of_ne_zero hne) (Nat.one_lt_two_pow (by omega : s ≠ 0))
    omega
  exact BitVec.eq_of_toNat_eq (by simpa using hzero)

/-- The difference of two words with one image is its own right shift, so it is zero. -/
theorem xorShift_bijective {w s : Nat} (hs : 1 ≤ s) : Function.Bijective (xorShift s : BitVec w → BitVec w) := by
  refine Finite.injective_iff_bijective.mp fun x y hxy => ?_
  have hdiff : x ^^^ y = (x ^^^ y) >>> s := by
    rw [BitVec.ushiftRight_xor_distrib, ← BitVec.xor_eq_zero_iff]
    calc x ^^^ y ^^^ (x >>> s ^^^ y >>> s) = xorShift s x ^^^ xorShift s y := by unfold xorShift; ac_rfl
      _ = 0#w := BitVec.xor_eq_zero_iff.mpr hxy
  exact BitVec.xor_eq_zero_iff.mp (eq_zero_of_eq_ushiftRight hs hdiff)

/-- Two odd multiplications between three xor-shifts, the shape of both finishers (R102, R103), are a bijection. -/
theorem finisher_bijective {w a b c : Nat} {m n : BitVec w} (ha : 1 ≤ a) (hb : 1 ≤ b) (hc : 1 ≤ c)
    (hm : m.toNat % 2 = 1) (hn : n.toNat % 2 = 1) :
    Function.Bijective fun h : BitVec w => xorShift c (xorShift b (xorShift a h * m) * n) :=
  (xorShift_bijective hc).comp <| (mul_odd_bijective hn).comp <| (xorShift_bijective hb).comp <|
    (mul_odd_bijective hm).comp (xorShift_bijective ha)

theorem fmix32_bijective : Function.Bijective fmix32 :=
  finisher_bijective (by decide) (by decide) (by decide) (by decide) (by decide)

theorem fmix64_bijective : Function.Bijective fmix64 :=
  finisher_bijective (by decide) (by decide) (by decide) (by decide) (by decide)

theorem fmix32_zero : fmix32 0#32 = 0#32 := by decide

theorem fmix64_zero : fmix64 0#64 = 0#64 := by decide

/-! ## Rotates -/

/-- The shifts of R100 are the library's rotate, where the amount is below the width. -/
theorem rotl32_eq_rotateLeft (x : Word32) {r : Nat} (h : r < 32) : rotl32 x r = x.rotateLeft r := by
  rw [BitVec.rotateLeft_def, Nat.mod_eq_of_lt h, rotl32]

/-- The shifts of R101, as those of R100. -/
theorem rotl64_eq_rotateLeft (x : Word64) {r : Nat} (h : r < 64) : rotl64 x r = x.rotateLeft r := by
  rw [BitVec.rotateLeft_def, Nat.mod_eq_of_lt h, rotl64]

/-- Rotates whose amounts add up to less than the width compose: neither wraps a bit around twice. -/
theorem rotateLeft_rotateLeft {w : Nat} (x : BitVec w) {a b : Nat} (h : a + b < w) :
    (x.rotateLeft a).rotateLeft b = x.rotateLeft (a + b) := by
  ext i hi
  simp only [BitVec.getElem_rotateLeft, Nat.mod_eq_of_lt h, Nat.mod_eq_of_lt (show a < w by omega),
    Nat.mod_eq_of_lt (show b < w by omega)]
  split_ifs <;> (congr 1; omega)

/-- Settles O16: the bijections hold at every width, the finishers are composed of them, and the rotates are the
library's. -/
theorem primitiveLaws : Obligations.PrimitiveLaws := by
  unfold Obligations.PrimitiveLaws
  refine ⟨⟨by decide, by decide, by decide, by decide, fun w m hm => mul_odd_bijective hm⟩,
    fun w s hs => xorShift_bijective hs, ⟨fmix32_bijective, fmix64_bijective, fmix32_zero, fmix64_zero⟩,
    fun x a b _ _ hab => ?_, fun x a b _ _ hab => ?_⟩
  · rw [rotl32_eq_rotateLeft x (by omega), rotl32_eq_rotateLeft _ (by omega), rotl32_eq_rotateLeft x (by omega),
      rotateLeft_rotateLeft x (by omega)]
  · rw [rotl64_eq_rotateLeft x (by omega), rotl64_eq_rotateLeft _ (by omega), rotl64_eq_rotateLeft x (by omega),
      rotateLeft_rotateLeft x (by omega)]

end Sys2Proof.Machine
end

section
/-! PROOFS. The four commands of the primitives, with their exceptions and corner cases (R104 to R107). -/

namespace Sys2Proof.Machine

/-! ## A ready transaction whose opcode is known -/

section
variable {s : State} {t : Transaction} {row : MapRow}

/-- A transaction that meets a row's match, mask and extra condition runs the row's command. -/
theorem step_of_row (hs : s.Ready t) (hrow : row ∈ opcodeMap) (hmatch : t.cmd &&& row.mask = row.bits)
    (hcond : row.op.condition s.nCtx t = true) : step s = exec (row.op.instr t) s.popCommand := by
  obtain ⟨hopc, hres⟩ := (MapRow.match_iff hrow t).mp hmatch
  obtain ⟨hrot, hctx, hpay⟩ := (Opcode.condition_iff _ _ _).mp hcond
  rw [step_ready hs]
  exact accept_ok (decode_ok_of_opc hopc hres hrot hctx hpay)

/-- A transaction with no meaning raises ILLEGAL. -/
theorem step_meaningless (hs : s.Ready t) (h : t.meaningless s.nCtx) :
    step s = .next (s.popCommand.raise .illegal) := by
  rw [step_ready hs]
  exact accept_meaningless h

/-- A transaction with a row's opcode that does not meet the row raises ILLEGAL. -/
theorem step_illegal_of_row (hs : s.Ready t) (hrow : row ∈ opcodeMap) (hopc : t.opc = row.op.byte)
    (hn : ¬ (t.cmd &&& row.mask = row.bits ∧ row.op.condition s.nCtx t = true)) :
    step s = .next (s.popCommand.raise .illegal) := by
  rw [MapRow.match_iff hrow, Opcode.condition_iff] at hn
  exact step_meaningless hs <| (meaningless_iff_of_opc s.nCtx hopc).mpr fun ⟨hres, hchecks⟩ =>
    hn ⟨⟨hopc, hres⟩, hchecks⟩

/-- A command of format N with a set bit below OPC or with a payload raises ILLEGAL. -/
theorem step_illegal_of_format_n {op : Opcode} (hs : s.Ready t) (hopc : t.opc = op.byte) (hn : op.format = .n)
    (hbad : t.cmd.extractLsb' 0 24 ≠ 0#24 ∨ t.payload ≠ []) : step s = .next (s.popCommand.raise .illegal) := by
  refine step_meaningless hs ((meaningless_iff_of_opc s.nCtx hopc).mpr fun ⟨hres, _, _, hpay⟩ => ?_)
  rw [hn] at hres hpay
  rcases hbad with hbits | hpayload
  · exact hbits (beq_iff_eq.mp hres)
  · exact hpayload (List.length_eq_zero_iff.mp (beq_iff_eq.mp hpay))

end

/-! ## Extra conditions and meanings -/

theorem rotl32_condition_iff (nCtx : Nat) (t : Transaction) :
    Opcode.rotl32.condition nCtx t = true ↔ t.cmd.extractLsb' 0 5 ≠ 0#5 ∧ t.payload = [] := by
  simp only [Opcode.condition, Bool.and_eq_true, bne_iff_ne, beq_iff_eq, List.length_eq_zero_iff]

theorem rotl64_condition_iff (nCtx : Nat) (t : Transaction) :
    Opcode.rotl64.condition nCtx t = true ↔ t.cmd.extractLsb' 0 6 ≠ 0#6 ∧ t.payload = [] := by
  simp only [Opcode.condition, Bool.and_eq_true, bne_iff_ne, beq_iff_eq, List.length_eq_zero_iff]

/-- The commands of format N have no condition but on the payload. -/
theorem condition_iff_of_format_n {op : Opcode} (hn : op.format = .n) (nCtx : Nat) (t : Transaction) :
    op.condition nCtx t = true ↔ t.payload = [] := by
  rw [Opcode.condition_iff, hn]
  simp [Format.rotateNonzero, Format.ctxExists, Format.payloadFits]

theorem exec_rotl32_nonzero {r : BitVec 5} (h : r ≠ 0#5) (o : Word64) (s : State) :
    exec (.rotl32 r o) s = .next (s.respond (resOf32 (rotl32 (opdX32 o) r.toNat))) :=
  if_neg h

theorem exec_rotl64_nonzero {r : BitVec 6} (h : r ≠ 0#6) (o : Word64) (s : State) :
    exec (.rotl64 r o) s = .next (s.respond (resOf64 (rotl64 (opdX64 o) r.toNat))) :=
  if_neg h

/-! ## Fixed points and corner cases of the rotates -/

theorem rotateLeft_zero_word (w r : Nat) : (0#w).rotateLeft r = 0#w := by
  ext i hi
  simp

theorem rotateLeft_allOnes (w r : Nat) : (BitVec.allOnes w).rotateLeft r = BitVec.allOnes w := by
  ext i hi
  simp

/-- A rotate by half the width swaps the halves. -/
theorem rotl64_half (x : Word64) : rotl64 x 32 = x.extractLsb' 0 32 ++ x.extractLsb' 32 32 := by
  ext i hi
  rw [rotl64_eq_rotateLeft x (by decide), BitVec.getElem_rotateLeft, BitVec.getElem_append]
  simp only [Nat.reduceMod, Nat.reduceSub, BitVec.getElem_extractLsb', Nat.zero_add]
  split_ifs with hlow
  · exact (BitVec.getLsbD_eq_getElem _).symm
  · exact (BitVec.getLsbD_eq_getElem _).symm

/-- Settles O11: match, mask and condition of the row decide between the rotate and ILLEGAL; the corner cases are those
of the library's rotate. -/
theorem rotl32Command : Obligations.Rotl32Command := by
  unfold Obligations.Rotl32Command
  have hrow : (⟨.rotl32, "ROTL32", 0x01000000#32, 0xFFFFFFE0#32⟩ : MapRow) ∈ opcodeMap := by decide
  refine ⟨fun s t hs hopc => ⟨fun ⟨hmatch, hr, hpay⟩ => ?_, fun hn => ?_⟩, fun r _ hr => ⟨?_, ?_⟩, fun x => ?_,
    fun x => ⟨?_, ?_⟩, by decide⟩
  · rw [step_of_row hs hrow hmatch ((rotl32_condition_iff _ t).mpr ⟨hr, hpay⟩)]
    exact exec_rotl32_nonzero hr t.opd s.popCommand
  · exact step_illegal_of_row hs hrow hopc fun ⟨hmatch, hcond⟩ => hn ⟨hmatch, (rotl32_condition_iff _ t).mp hcond⟩
  · rw [rotl32_eq_rotateLeft _ (by omega), rotateLeft_zero_word]
  · rw [rotl32_eq_rotateLeft _ (by omega)]
    exact rotateLeft_allOnes 32 r
  · rw [rotl32_eq_rotateLeft x (by decide)]
    simp
  · rw [rotl32_eq_rotateLeft x (by decide)]
    simp
  · exact rotateRight_eq_shifts x (r := 1) (by decide)

/-- Settles O12: the row decides between the rotate and ILLEGAL, as for ROTL32, and a rotate by 32 swaps the halves. -/
theorem rotl64Command : Obligations.Rotl64Command := by
  unfold Obligations.Rotl64Command
  have hrow : (⟨.rotl64, "ROTL64", 0x02000000#32, 0xFFFFFFC0#32⟩ : MapRow) ∈ opcodeMap := by decide
  refine ⟨fun s t hs hopc => ⟨fun ⟨hmatch, hr, hpay⟩ => ?_, fun hn => ?_⟩, fun r _ hr => ⟨?_, ?_⟩,
    fun x => rotateRight_eq_shifts x (r := 1) (by decide), rotl64_half, by decide⟩
  · rw [step_of_row hs hrow hmatch ((rotl64_condition_iff _ t).mpr ⟨hr, hpay⟩)]
    exact exec_rotl64_nonzero hr t.opd s.popCommand
  · exact step_illegal_of_row hs hrow hopc fun ⟨hmatch, hcond⟩ => hn ⟨hmatch, (rotl64_condition_iff _ t).mp hcond⟩
  · rw [rotl64_eq_rotateLeft _ (by omega), rotateLeft_zero_word]
  · rw [rotl64_eq_rotateLeft _ (by omega)]
    exact rotateLeft_allOnes 64 r

/-- Settles O13: match, mask and payload decide between the finisher and ILLEGAL; the finisher is a bijection by its
shape. -/
theorem fmix32Command : Obligations.Fmix32Command := by
  unfold Obligations.Fmix32Command
  have hrow : (⟨.fmix32, "FMIX32", 0x03000000#32, 0xFFFFFFFF#32⟩ : MapRow) ∈ opcodeMap := by decide
  refine ⟨fun s t hs hopc => ⟨fun ⟨hmatch, hpay⟩ => ?_, fun hbad => ?_⟩, fmix32_zero, fmix32_bijective, by decide⟩
  · rw [step_of_row hs hrow hmatch ((condition_iff_of_format_n rfl _ t).mpr hpay)]
    exact exec_fmix32 t.opd s.popCommand
  · exact step_illegal_of_format_n hs (op := .fmix32) hopc rfl hbad

/-- Settles O14: FMIX64 is of the same format and its finisher of the same shape as FMIX32's. -/
theorem fmix64Command : Obligations.Fmix64Command := by
  unfold Obligations.Fmix64Command
  have hrow : (⟨.fmix64, "FMIX64", 0x04000000#32, 0xFFFFFFFF#32⟩ : MapRow) ∈ opcodeMap := by decide
  refine ⟨fun s t hs hopc => ⟨fun ⟨hmatch, hpay⟩ => ?_, fun hbad => ?_⟩, fmix64_zero, fmix64_bijective, by decide⟩
  · rw [step_of_row hs hrow hmatch ((condition_iff_of_format_n rfl _ t).mpr hpay)]
    exact exec_fmix64 t.opd s.popCommand
  · exact step_illegal_of_format_n hs (op := .fmix64) hopc rfl hbad

end Sys2Proof.Machine
end

section
/-! PROOFS. The three streaming commands, with their exceptions and corner cases (R134 to R137), and the digest without
the test of TLEN (R142). -/

namespace Sys2Proof.Machine

/-! ## Transactions of formats C and CL -/

/-- The commands of format C have a condition on the context and on the payload. -/
theorem condition_iff_of_format_c {op : Opcode} (hc : op.format = .c) (nCtx : Nat) (t : Transaction) :
    op.condition nCtx t = true ↔ t.ctx.toNat < nCtx ∧ t.payload = [] := by
  rw [Opcode.condition_iff, hc]
  simp [Format.rotateNonzero, Format.ctxExists, Format.payloadFits]

theorem s32Write_condition_iff (nCtx : Nat) (t : Transaction) :
    Opcode.s32Write.condition nCtx t = true ↔ t.ctx.toNat < nCtx ∧ t.payload.length = t.len.toNat := by
  simp only [Opcode.condition, Bool.and_eq_true, decide_eq_true_eq, beq_iff_eq]

/-- A command of format C on a missing context, with a set bit below CTX or with a payload raises ILLEGAL. -/
theorem step_illegal_of_format_c {s : State} {t : Transaction} {op : Opcode} (hs : s.Ready t) (hopc : t.opc = op.byte)
    (hc : op.format = .c)
    (hbad : s.nCtx ≤ t.ctx.toNat ∨ t.cmd.extractLsb' 0 20 ≠ 0#20 ∨ t.payload ≠ []) :
    step s = .next (s.popCommand.raise .illegal) := by
  refine step_meaningless hs ((meaningless_iff_of_opc s.nCtx hopc).mpr fun ⟨hres, _, hctx, hpay⟩ => ?_)
  rw [hc] at hres hctx hpay
  rcases hbad with habsent | hbits | hpayload
  · exact absurd (of_decide_eq_true hctx) (Nat.not_lt.mpr habsent)
  · exact hbits (beq_iff_eq.mp hres)
  · exact hpayload (List.length_eq_zero_iff.mp (beq_iff_eq.mp hpay))

/-- An S32_WRITE on a missing context or with a payload that is not LEN bytes long raises ILLEGAL. -/
theorem step_illegal_of_s32Write {s : State} {t : Transaction} (hs : s.Ready t) (hopc : t.opc = 0x11#8)
    (hbad : s.nCtx ≤ t.ctx.toNat ∨ t.payload.length ≠ t.len.toNat) :
    step s = .next (s.popCommand.raise .illegal) := by
  refine step_illegal_of_row (row := ⟨.s32Write, "S32_WRITE", 0x11000000#32, 0xFF000000#32⟩) hs (by decide) hopc
    fun ⟨_, hcond⟩ => ?_
  obtain ⟨hctx, hlen⟩ := (s32Write_condition_iff _ t).mp hcond
  exact hbad.elim (Nat.not_le.mpr hctx) fun h => h hlen

/-- Settles O18: the row of S32_NEW decides between a fresh context and ILLEGAL. -/
theorem s32NewCommand : Obligations.S32NewCommand := by
  unfold Obligations.S32NewCommand
  have hrow : (⟨.s32New, "S32_NEW", 0x10000000#32, 0xFF0FFFFF#32⟩ : MapRow) ∈ opcodeMap := by decide
  refine fun s t hs hopc => ⟨fun ⟨hmatch, hctx, hpay⟩ => ?_, fun hbad => ?_⟩
  · obtain ⟨x, hx⟩ := State.ctx?_of_lt hctx
    rw [step_of_row hs hrow hmatch ((condition_iff_of_format_c rfl _ t).mpr ⟨hctx, hpay⟩)]
    exact exec_s32New_present t.opd hx
  · exact step_illegal_of_format_c hs (op := .s32New) hopc rfl hbad

/-! ## Writing a payload -/

/-- A write absorbs the payload and counts its bytes. -/
theorem Context.write_eq (c : Context) (p : List Byte) :
    c.write p = { c.absorb p with total := c.total + BitVec.ofNat 32 p.length } := by
  rw [Context.write, Context.absorb_total]

@[simp] theorem Context.write_nil (c : Context) : c.write [] = c := by
  simp [Context.write]

/-- Settles O19: a write with the right length depends on whether its context is valid; the loop's two cases are those
of one byte. -/
theorem s32WriteCommand : Obligations.S32WriteCommand := by
  unfold Obligations.S32WriteCommand
  have hrow : (⟨.s32Write, "S32_WRITE", 0x11000000#32, 0xFF000000#32⟩ : MapRow) ∈ opcodeMap := by decide
  refine ⟨fun s t hs hopc => ⟨step_illegal_of_s32Write hs hopc, fun hlen c hc => ?_⟩,
    fun c b => ⟨Context.absorbByte_tail b, Context.absorbByte_block b⟩, Context.write_nil, by decide +kernel⟩
  have hlimit : t.payload.length < Config.payloadLimit := by
    rw [hlen]
    exact t.len.isLt
  have hcond := (s32Write_condition_iff s.nCtx t).mpr ⟨State.lt_of_ctx? hc, hlen⟩
  have hstep : step s = exec (.s32Write t.ctx t.opd t.payload) s.popCommand :=
    step_of_row hs hrow ((cmd_mask_cl t.cmd).mpr hopc) hcond
  refine ⟨fun hv => ?_, fun hv => ?_⟩
  · rw [hstep]
    exact exec_s32Write_invalid t.opd hlimit hc hv
  · rw [hstep, exec_s32Write_valid (s := s.popCommand) t.opd hlimit hc hv, Context.write_eq]
    rfl

/-! ## The tail word and the digest -/

/-- Each of the bytes put side by side stands at its place, and every other byte is zero. -/
theorem foldl_placed_byte (f : Nat → Byte) {n j : Nat} (hn : n ≤ 4) (hj : j < 4) :
    ((List.range n).foldl (fun k i => k ||| (f i).setWidth 32 <<< (8 * i)) 0#32).extractLsb' (8 * j) 8 =
      if j < n then f j else 0#8 := by
  induction n with
  | zero => simp
  | succ n ih =>
    have hplaced : ((f n).setWidth 32 <<< (8 * n)).extractLsb' (8 * j) 8 = if j = n then f n else 0#8 :=
      placed_byte 4 (f n) n j (by omega) hj
    rw [List.range_succ, List.foldl_append, List.foldl_cons, List.foldl_nil, BitVec.extractLsb'_or, ih (by omega),
      hplaced]
    rcases Nat.lt_trichotomy j n with h | rfl | h
    · simp [h, h.ne, Nat.lt_succ_of_lt h]
    · simp
    · simp [show ¬ j < n by omega, show ¬ j = n by omega, show ¬ j < n + 1 by omega]

/-- Byte `j` of the tail word is `TAIL[j]` below TLEN and zero above (R134). -/
theorem Context.tailword_byte (c : Context) {j : Nat} (hj : j < 4) :
    c.tailword.extractLsb' (8 * j) 8 = if j < c.tlen.toNat then c.tail.get j else 0#8 :=
  foldl_placed_byte c.tail.get c.tlen.isLt.le hj

theorem Context.tailword_of_tlen_zero {c : Context} (h : c.tlen = 0#2) : c.tailword = 0#32 := by
  simp [Context.tailword, h]

theorem kmix32s_zero : kmix32s 0#32 = 0#32 := by decide

/-- A stream with no pending byte mixes zero, so the tail step needs no test (R142). -/
theorem Context.digest_eq (c : Context) : c.digest = fmix32 (c.acc ^^^ kmix32s c.tailword ^^^ c.total) := by
  unfold Context.digest
  rcases Nat.eq_zero_or_pos c.tlen.toNat with h | h
  · have hzero : c.tlen = 0#2 := BitVec.eq_of_toNat_eq h
    simp [hzero, Context.tailword_of_tlen_zero hzero, kmix32s_zero]
  · simp only [if_pos h]

/-- Settles O20: the row of S32_FINAL and then the context decide between ILLEGAL, UNINIT and the digest; the tail word
is known byte by byte. -/
theorem s32FinalCommand : Obligations.S32FinalCommand := by
  unfold Obligations.S32FinalCommand
  have hrow : (⟨.s32Final, "S32_FINAL", 0x12000000#32, 0xFF0FFFFF#32⟩ : MapRow) ∈ opcodeMap := by decide
  refine ⟨fun s t hs hopc => ⟨step_illegal_of_format_c hs (op := .s32Final) hopc rfl,
    fun ⟨hmatch, hpay⟩ c hc => ?_⟩, fun c j => c.tailword_byte, fun c hacc htotal htlen => ?_, kmix32s_zero,
    by decide +kernel⟩
  · have hcond := (condition_iff_of_format_c (op := .s32Final) rfl s.nCtx t).mpr ⟨State.lt_of_ctx? hc, hpay⟩
    have hstep : step s = exec (.s32Final t.ctx t.opd) s.popCommand := step_of_row hs hrow hmatch hcond
    refine ⟨fun hv => ?_, fun hv => ?_⟩
    · rw [hstep]
      exact exec_s32Final_invalid t.opd hc hv
    · rw [hstep]
      exact exec_s32Final_valid t.opd hc hv
  · rw [Context.digest_eq, hacc, htotal, Context.tailword_of_tlen_zero htlen, kmix32s_zero]
    exact fmix32_zero

/-- Settles O25: an empty tail word mixes to zero, which an xor does not show. -/
theorem tailTestUnobservable : Obligations.TailTestUnobservable := by
  unfold Obligations.TailTestUnobservable
  refine ⟨fun c h => ⟨Context.tailword_of_tlen_zero h, fun acc => ?_⟩, Context.digest_eq⟩
  rw [Context.tailword_of_tlen_zero h, kmix32s_zero, BitVec.xor_zero]

end Sys2Proof.Machine
end

section
/-! PROOFS. A context holds its stream: absorbing byte by byte and by groups agree (R138), through any commands a
context is that of its stream (R139), and so its digest does not depend on the split of the stream (R140). -/

namespace Sys2Proof.Machine

/-! ## Absorbing by groups -/

/-- The bytes of the tail that wait for a block, in stream order. -/
def Context.pending (c : Context) : List Byte := (List.range c.tlen.toNat).map c.tail.get

@[simp] theorem Context.pending_length (c : Context) : c.pending.length = c.tlen.toNat := by
  simp [Context.pending]

/-- The tail of a tidy context is its pending bytes, with zeros after them. -/
theorem Context.pending_getD {c : Context} (hv : c.valid = true) (ht : c.tidy) {j : Nat} (hj : j ≤ 2) :
    c.pending.getD j 0#8 = c.tail.get j := by
  rcases Nat.lt_or_ge j c.tlen.toNat with h | h
  · simp [Context.pending, List.getD_eq_getElem?_getD, List.getElem?_range h]
  · rw [getD_beyond _ _ (by simpa using h), ht hv j h hj]

/-- A tidy valid context is, but for SEED and TOTAL, that of its pending bytes as a stream begun at ACC. -/
theorem contextOf_pending {c : Context} (hv : c.valid = true) (ht : c.tidy) :
    contextOf c.acc c.pending = { c with seed := c.acc, total := BitVec.ofNat 32 c.tlen.toNat } := by
  have hlt := c.tlen.isLt
  have hnoblock : c.pending.length / 4 = 0 := by rw [c.pending_length]; omega
  refine Context.eq_of_fields hv.symm rfl ?_ ?_ (fun j hj => ?_) ?_
  · rw [contextOf_acc, streamAcc, hnoblock]
    rfl
  · rw [contextOf, c.pending_length]
  · rw [contextOf_tail_get _ _ hj, hnoblock, Nat.mul_zero, Nat.zero_add, Context.pending_getD hv ht hj]
  · rw [contextOf_tlen, c.pending_length]
    exact Nat.mod_eq_of_lt hlt

/-- SEED and TOTAL do not change how bytes are absorbed. -/
theorem Context.absorb_with_seed_total (c : Context) (seed total : Word32) (p : List Byte) :
    Context.absorb { c with seed := seed, total := total } p = { c.absorb p with seed := seed, total := total } := by
  induction p generalizing c with
  | nil => rfl
  | cons b p ih =>
    have hb : Context.absorbByte { c with seed := seed, total := total } b =
        { c.absorbByte b with seed := seed, total := total } := by
      simp only [Context.absorbByte]
      split_ifs <;> rfl
    rw [Context.absorb_cons, hb, ih, Context.absorb_cons]

/-- Absorbing bytes gives the context of the longer stream, with the old TOTAL. -/
theorem contextOf_absorb (seed : Word32) (S p : List Byte) :
    (contextOf seed S).absorb p = { contextOf seed (S ++ p) with total := (contextOf seed S).total } := by
  rw [← contextOf_write, Context.write_eq, ← Context.absorb_total (contextOf seed S) p]

/-- A tidy valid context that absorbs bytes is, but for SEED and TOTAL, that of the pending bytes and the new ones as a
stream begun at ACC. -/
theorem Context.absorb_eq_contextOf {c : Context} (hv : c.valid = true) (ht : c.tidy) (p : List Byte) :
    c.absorb p = { contextOf c.acc (c.pending ++ p) with seed := c.seed, total := c.total } := by
  calc c.absorb p
      = { c.absorb p with seed := c.seed, total := c.total } := c.absorb_with_seed_total c.seed c.total p
    _ = { Context.absorb { c with seed := c.acc, total := BitVec.ofNat 32 c.tlen.toNat } p with
          seed := c.seed, total := c.total } := by rw [c.absorb_with_seed_total c.acc]
    _ = { contextOf c.acc (c.pending ++ p) with seed := c.seed, total := c.total } := by
        rw [← contextOf_pending hv ht, contextOf_absorb]

/-- Settles O21: the pending bytes and the payload are one stream begun at ACC, whose context is known by words. -/
theorem topUpEquivalence : Obligations.TopUpEquivalence := by
  unfold Obligations.TopUpEquivalence
  intro c payload hv ht
  rw [Context.absorb_eq_contextOf hv ht, contextOf, hv]
  rfl

/-! ## The stream of a context through any commands -/

/-- A command that does not name a context leaves its stream alone (R52). -/
theorem streamStep_other {c : BitVec 4} {i : Instr} (h : i.context? ≠ some c) (st : Word32 × List Byte) :
    streamStep c st i = st := by
  have hne : ∀ d, i.context? = some d → d ≠ c := fun d hd hdc => h (hdc ▸ hd)
  cases i with
  | s32New d o => exact if_neg (hne d rfl)
  | s32Write d o p => exact if_neg fun hd => hne d rfl hd.1
  | _ => rfl

/-- After one more command a context is that of its stream. -/
theorem exec_keeps_stream {c : BitVec 4} {i : Instr} {s t : State} {st : Word32 × List Byte}
    (hs : s.ctx? c = some (contextOf st.1 st.2)) (h : exec i s = .next t) :
    t.ctx? c = some (contextOf (streamStep c st i).1 (streamStep c st i).2) := by
  have hself : ∀ x, ((s.setCtx c x).setCode .ok).ctx? c = some x := fun x =>
    State.setCtx_ctx?_self x (State.lt_of_ctx? hs)
  by_cases hi : i.context? = some c
  · cases i with
    | s32New d o =>
      cases hi
      cases (exec_s32New_present o hs).symm.trans h
      rw [hself, streamStep, if_pos rfl]
      exact congrArg some (fresh_write (opdSeed o) [])
    | s32Write d o p =>
      cases hi
      rcases Nat.lt_or_ge p.length Config.payloadLimit with hp | hp
      · cases (exec_s32Write_valid o hp hs rfl).symm.trans h
        rw [hself, streamStep, if_pos ⟨rfl, hp⟩, contextOf_write]
      · cases (exec_s32Write_tooLong o hp).symm.trans h
        rw [streamStep, if_neg fun hd => Nat.not_lt.mpr hp hd.2]
        exact hs
    | s32Final d o =>
      cases hi
      cases (exec_s32Final_valid o hs rfl).symm.trans h
      exact hs
    | _ => cases hi
  · have hother : t.ctx? c = s.ctx? c := exec_ctxs_other h fun d hd hdc =>
      hi (hd.trans (congrArg some (BitVec.eq_of_toNat_eq hdc)))
    rw [hother, streamStep_other hi, hs]

theorem execAll_keeps_stream {c : BitVec 4} {is : List Instr} {s t : State} {st : Word32 × List Byte}
    (hs : s.ctx? c = some (contextOf st.1 st.2)) (h : execAll is s = .next t) :
    t.ctx? c = some (contextOf (is.foldl (streamStep c) st).1 (is.foldl (streamStep c) st).2) := by
  induction is generalizing s st with
  | nil =>
    cases h
    exact hs
  | cons i is ih =>
    obtain ⟨u, hu⟩ := exec_next i s
    rw [execAll_cons hu] at h
    exact ih (exec_keeps_stream hs hu) h

/-- After an S32_NEW and any commands a context is that of its stream. -/
theorem execAll_new_stream {c : BitVec 4} {o : Word64} {is : List Instr} {s t : State} (hc : c.toNat < s.nCtx)
    (h : execAll (.s32New c o :: is) s = .next t) :
    t.ctx? c = some (contextOf (is.foldl (streamStep c) (opdSeed o, [])).1
      (is.foldl (streamStep c) (opdSeed o, [])).2) := by
  obtain ⟨x, hx⟩ := State.ctx?_of_lt hc
  rw [execAll_cons (exec_s32New_present o hx)] at h
  refine execAll_keeps_stream ?_ h
  rw [← fresh_write, Context.write_nil]
  exact State.setCtx_ctx?_self _ hc

/-- Settles O22: the context is that of its stream after every command, and its digest is the stream's hash32. -/
theorem contextHoldsItsStream : Obligations.ContextHoldsItsStream := by
  unfold Obligations.ContextHoldsItsStream
  intro s s' c opd is hc h seed S
  have hctx : s'.ctx? c = some (contextOf seed S) := execAll_new_stream hc h
  refine ⟨⟨contextOf seed S, hctx, rfl, rfl, rfl, contextOf_tlen seed S, fun j hj => ?_, BitVec.toNat_ofNat ..⟩,
    fun o => ?_⟩
  · rw [contextOf_tlen] at hj
    exact contextOf_tail_get seed S (by omega)
  · rw [exec_s32Final_valid o hctx rfl, contextOf_digest]
    rfl

/-! ## Splits of a stream -/

theorem execAll_next (is : List Instr) (s : State) : ∃ t, execAll is s = .next t := by
  induction is generalizing s with
  | nil => exact ⟨s, rfl⟩
  | cons i is ih =>
    obtain ⟨u, hu⟩ := exec_next i s
    rw [execAll_cons hu]
    exact ih u

/-- An S32_FINAL that ends OK has written RES. -/
theorem execAll_final_resWritten {is : List Instr} {c : BitVec 4} {o : Word64} {s t : State}
    (h : execAll (is ++ [.s32Final c o]) s = .next t) (hcode : t.code = 0#3) : t.resWritten = true := by
  obtain ⟨u, hu⟩ := execAll_next is s
  rw [execAll_append hu] at h
  rcases exec_s32Final_cases c o u with ⟨-, hf⟩ | ⟨_, -, -, hf⟩ | ⟨_, -, -, hf⟩
  · cases (execAll_cons hf []).symm.trans h
    simp [Code.bits] at hcode
  · cases (execAll_cons hf []).symm.trans h
    simp [Code.bits] at hcode
  · cases (execAll_cons hf []).symm.trans h
    rfl

/-- Settles O23: either split leaves the hash32 of the whole stream in RES. -/
theorem chunkingInvariance : Obligations.ChunkingInvariance := by
  unfold Obligations.ChunkingInvariance
  intro s c opd o ps qs hc hps hqs hflat
  obtain ⟨t, ht, htcode, htres⟩ := execAll_hash hc opd o o fun p hp => Nat.lt_succ_of_le (hps p hp)
  obtain ⟨u, hu, hucode, hures⟩ := execAll_hash hc opd o o fun q hq => Nat.lt_succ_of_le (hqs q hq)
  exact ⟨t, u, ht, hu, by rw [htres, hures, hflat], execAll_final_resWritten ht htcode, htcode, hucode⟩

end Sys2Proof.Machine
end

section
/-! PROOFS. S32_FINAL changes no context and can be repeated (R141). -/

namespace Sys2Proof.Machine

/-! ## A result over what stood before -/

@[simp] theorem State.raise_raise (k l : Code) (s : State) : (s.raise k).raise l = s.raise l :=
  State.setCode_setCode k l s

/-- A result replaces an earlier outcome code. -/
@[simp] theorem State.setCode_respond (k : Code) (v : Word128) (s : State) : (s.setCode k).respond v = s.respond v := by
  simp only [State.respond_eq, State.setCode_eq, status_reserved]

@[simp] theorem State.raise_respond (k : Code) (v : Word128) (s : State) : (s.raise k).respond v = s.respond v :=
  State.setCode_respond k v s

/-- A later result replaces an earlier one. -/
@[simp] theorem State.respond_respond (v w : Word128) (s : State) : (s.respond v).respond w = s.respond w := by
  simp only [State.respond_eq, status_reserved]

theorem State.respond_setCtx (v : Word128) (c : BitVec 4) (x : Context) (s : State) :
    (s.respond v).setCtx c x = (s.setCtx c x).respond v := rfl

/-- No command that does not read the source depends on an earlier outcome code, nor leaves it. -/
theorem exec_after_raise {i : Instr} (hi : i.readsSource = false) (k : Code) (s : State) :
    exec i (s.raise k) = exec i s := by
  rcases exec_plain_local hi (s := s) (s' := s.raise k) fun _ _ => rfl with
    ⟨l, h, h'⟩ | ⟨v, h, h'⟩ | ⟨c, x, -, h, h'⟩
  · rw [h, h', State.raise_raise]
  · rw [h, h', State.raise_respond]
  · have hcomm : (s.raise k).setCtx c x = (s.setCtx c x).setCode k := rfl
    rw [h, h', hcomm, State.setCode_setCode]

/-- An S32_FINAL leaves the contexts alone, and a second one changes nothing more. -/
theorem exec_s32Final_again {c : BitVec 4} {o : Word64} {s t : State} (h : exec (.s32Final c o) s = .next t) :
    t.ctxs = s.ctxs ∧ exec (.s32Final c o) t = .next t := by
  rcases exec_s32Final_cases c o s with ⟨hx, hf⟩ | ⟨x, hx, hv, hf⟩ | ⟨x, hx, hv, hf⟩
  · cases hf.symm.trans h
    exact ⟨rfl, (exec_after_raise rfl _ s).trans hf⟩
  · cases hf.symm.trans h
    exact ⟨rfl, (exec_after_raise rfl _ s).trans hf⟩
  · cases hf.symm.trans h
    refine ⟨rfl, ?_⟩
    rw [exec_s32Final_valid (s := s.respond _) o hx hv, State.respond_respond]

/-- A write and an S32_FINAL to a valid context leave nothing of a result that stood before. -/
theorem execAll_write_final_after_respond {c : BitVec 4} {x : Context} {s : State} (o : Word64) (p : List Byte)
    (v : Word128) (hx : s.ctx? c = some x) (hv : x.valid = true) :
    execAll [.s32Write c o p, .s32Final c o] (s.respond v) = execAll [.s32Write c o p, .s32Final c o] s := by
  have hxr : (s.respond v).ctx? c = some x := hx
  rcases Nat.lt_or_ge p.length Config.payloadLimit with hp | hp
  · have hwv : (x.write p).valid = true := by rwa [Context.write_valid]
    have hw : ((s.setCtx c (x.write p)).setCode .ok).ctx? c = some (x.write p) :=
      State.setCtx_ctx?_self _ (State.lt_of_ctx? hx)
    have hwr : (((s.respond v).setCtx c (x.write p)).setCode .ok).ctx? c = some (x.write p) := hw
    rw [execAll_cons (exec_s32Write_valid o hp hxr hv), execAll_cons (exec_s32Final_valid o hwr hwv),
      execAll_cons (exec_s32Write_valid o hp hx hv), execAll_cons (exec_s32Final_valid o hw hwv),
      State.respond_setCtx, State.setCode_respond, State.setCode_respond, State.respond_respond]
  · rw [execAll_cons (exec_s32Write_tooLong o hp), execAll_cons (exec_s32Write_tooLong o hp),
      execAll_cons (exec_s32Final_valid (s := (s.respond v).raise _) o hx hv),
      execAll_cons (exec_s32Final_valid (s := s.raise _) o hx hv),
      State.raise_respond, State.raise_respond, State.respond_respond]

/-- Settles O24: an S32_FINAL leaves only a code and perhaps a result, and the commands after it replace both. -/
theorem finalizeRepeatable : Obligations.FinalizeRepeatable := by
  unfold Obligations.FinalizeRepeatable
  refine fun s c o => ⟨fun t => exec_s32Final_again, fun payload => ?_⟩
  have hraise : ∀ k, execAll [.s32Write c o payload, .s32Final c o] (s.raise k) =
      execAll [.s32Write c o payload, .s32Final c o] s := fun k => by
    obtain ⟨u, hu⟩ := exec_next (.s32Write c o payload) s
    rw [execAll_cons hu, execAll_cons ((exec_after_raise rfl k s).trans hu)]
  rcases exec_s32Final_cases c o s with ⟨-, hf⟩ | ⟨_, -, -, hf⟩ | ⟨x, hx, hv, hf⟩
  · rw [execAll_cons hf, hraise]
  · rw [execAll_cons hf, hraise]
  · rw [execAll_cons hf, execAll_write_final_after_respond o payload _ hx hv]

end Sys2Proof.Machine
end

section
/-! PROOFS. The one-shot engines after any answers that fit: an engine stands where the bytes read so far put it,
however they were split (R178), and a failing answer from there loses them (R173, R203). -/

namespace Sys2Proof.Machine

variable {L : Type}

/-! ## The input by blocks -/

@[simp] theorem tailOf_length (S : List Byte) : (tailOf S).length = S.length % 16 := by
  simp only [tailOf, List.length_drop]
  omega

/-- A complete block of an input is a block of any longer input. -/
theorem blockOf_append {S : List Byte} (bs : List Byte) {i : Nat} (h : 16 * i + 16 ≤ S.length) :
    blockOf (S ++ bs) i = blockOf S i := by
  unfold blockOf
  rw [List.drop_append_of_le_length (by omega), List.take_append_of_le_length (by simp; omega)]

/-- Bytes that come after an input come after its tail. -/
theorem drop_blocks_append (S bs : List Byte) : (S ++ bs).drop (16 * (S.length / 16)) = tailOf S ++ bs :=
  List.drop_append_of_le_length (by omega)

/-- Bytes that complete no block lengthen the tail. -/
theorem tailOf_append {S bs : List Byte} (h : S.length % 16 + bs.length < 16) : tailOf (S ++ bs) = tailOf S ++ bs := by
  have hq : (S ++ bs).length / 16 = S.length / 16 := by simp only [List.length_append]; omega
  rw [← drop_blocks_append, tailOf, hq]

/-- Bytes that complete a block leave no tail. -/
theorem tailOf_append_full {S bs : List Byte} (h : S.length % 16 + bs.length = 16) : tailOf (S ++ bs) = [] :=
  List.eq_nil_of_length_eq_zero (by simp only [tailOf_length, List.length_append]; omega)

/-- The block that the bytes after an input complete is its tail and these bytes. -/
theorem blockOf_append_full {S bs : List Byte} (h : S.length % 16 + bs.length = 16) :
    blockOf (S ++ bs) (S.length / 16) = tailOf S ++ bs := by
  rw [blockOf, drop_blocks_append]
  exact List.take_of_length_le (by simp only [List.length_append, tailOf_length]; omega)

/-- The lanes after the complete blocks of an input, in order (R165, R196). -/
def absorbBlocks (block : L → List Byte → L) (lanes : L) (S : List Byte) : L :=
  (List.range (S.length / 16)).foldl (fun l i => block l (blockOf S i)) lanes

theorem foldl_blocks_append (block : L → List Byte → L) (lanes : L) (S bs : List Byte) :
    (List.range (S.length / 16)).foldl (fun l i => block l (blockOf (S ++ bs) i)) lanes =
      absorbBlocks block lanes S := by
  refine List.foldl_ext _ _ _ fun l i hi => ?_
  have := List.mem_range.mp hi
  rw [blockOf_append bs (by omega)]

theorem absorbBlocks_append (block : L → List Byte → L) (lanes : L) {S bs : List Byte}
    (h : S.length % 16 + bs.length < 16) : absorbBlocks block lanes (S ++ bs) = absorbBlocks block lanes S := by
  have hq : (S ++ bs).length / 16 = S.length / 16 := by simp only [List.length_append]; omega
  rw [← foldl_blocks_append block lanes S bs, absorbBlocks, hq]

theorem absorbBlocks_append_full (block : L → List Byte → L) (lanes : L) {S bs : List Byte}
    (h : S.length % 16 + bs.length = 16) :
    absorbBlocks block lanes (S ++ bs) = block (absorbBlocks block lanes S) (tailOf S ++ bs) := by
  have hq : (S ++ bs).length / 16 = S.length / 16 + 1 := by simp only [List.length_append]; omega
  rw [absorbBlocks, hq, List.range_succ, List.foldl_append, foldl_blocks_append, List.foldl_cons, List.foldl_nil,
    blockOf_append_full h]

/-! ## The engine of an input -/

/-- The waiting engine that has read the bytes `S` since its start: the complete blocks are in its lanes and the rest in
BUF (R31). -/
def Engine.ofInput (block : L → List Byte → L) (lanes : L) (S : List Byte) : Engine L :=
  { lanes := absorbBlocks block lanes S, buf := tailOf S, nb := S.length, phase := .absorb }

theorem Engine.ofInput_nil (block : L → List Byte → L) (lanes : L) :
    Engine.ofInput block lanes [] = Engine.start lanes := rfl

theorem Engine.ofInput_request (block : L → List Byte → L) (lanes : L) (S : List Byte) :
    (Engine.ofInput block lanes S).request = 16 - S.length % 16 :=
  congrArg (16 - ·) (tailOf_length S)

/-- Taking an answer that fits gives the engine of the longer input. -/
theorem Engine.ofInput_take (block : L → List Byte → L) (lanes : L) {S bs : List Byte}
    (h : bs.length ≤ 16 - S.length % 16) :
    (Engine.ofInput block lanes S).take block bs = Engine.ofInput block lanes (S ++ bs) := by
  have hlen : (tailOf S ++ bs).length = S.length % 16 + bs.length := by simp
  unfold Engine.take Engine.ofInput
  simp only [hlen, Config.blockBytes, List.length_append]
  split_ifs with hfull
  · rw [absorbBlocks_append_full block lanes hfull, tailOf_append_full hfull]
  · have hpart : S.length % 16 + bs.length < 16 := by omega
    rw [absorbBlocks_append block lanes hpart, tailOf_append hpart]

/-- Running the engine of an input on answers that fit is running the engine of the longer input after them. -/
theorem State.runEngine_ofInput (k : EngineKind L) (lanes : L) {S : List Byte} {bss : List (List Byte)} {s : State}
    {rest : List Answer} (hfit : fitsRequests (S.length % 16) bss = true) (hs : s.srcPort = bss.map .bytes ++ rest) :
    s.runEngine k (.ofInput k.block lanes S) =
      State.runEngine k (.ofInput k.block lanes (S ++ bss.flatten)) { s with srcPort := rest } := by
  induction bss generalizing S s with
  | nil =>
    obtain rfl : s.srcPort = rest := hs
    rw [List.flatten_nil, List.append_nil]
  | cons bs bss ih =>
    simp only [fitsRequests, Bool.and_eq_true, decide_eq_true_eq] at hfit
    obtain ⟨⟨hne, hle⟩, hfit⟩ := hfit
    have hmod : (S ++ bs).length % 16 = (S.length % 16 + bs.length) % 16 := by
      rw [List.length_append, Nat.mod_add_mod]
    rw [State.runEngine_take k rfl hs hne ((Engine.ofInput_request ..).symm ▸ hle), Engine.ofInput_take _ _ hle,
      ih (hmod ▸ hfit) rfl, List.flatten_cons, List.append_assoc]

/-- An engine at its start, run on answers that fit, goes on as the engine of their bytes: how these are split into
answers does not matter (R178). -/
theorem State.runEngine_start (k : EngineKind L) (lanes : L) {bss : List (List Byte)} {s : State} {rest : List Answer}
    (hfit : fitsRequests 0 bss = true) (hs : s.srcPort = bss.map .bytes ++ rest) :
    s.runEngine k (.start lanes) =
      State.runEngine k (.ofInput k.block lanes bss.flatten) { s with srcPort := rest } :=
  State.runEngine_ofInput k lanes (S := []) hfit hs

/-- Settles O32: from its start either engine reaches the engine of the whole input, which both splits share. -/
theorem splitIndependence : Obligations.SplitIndependence := by
  unfold Obligations.SplitIndependence
  intro s opd bss css rest hb hc heq
  refine ⟨?_, ?_⟩
  · rw [exec_x86Hash, exec_x86Hash, State.runEngine_start _ _ hb rfl, State.runEngine_start _ _ hc rfl, heq]
  · rw [exec_x64Hash, exec_x64Hash, State.runEngine_start _ _ hb rfl, State.runEngine_start _ _ hc rfl, heq]

/-! ## Answers that end a transaction with an error -/

section
variable (k : EngineKind L) {e : Engine L} {s : State} {rest : List Answer}

/-- A waiting engine that is answered Error ends with IOERR (R224). -/
theorem State.runEngine_error (he : e.phase = .absorb) {tok : Word32} (hs : s.srcPort = .error tok :: rest) :
    s.runEngine k e = (s.leaveAnswers rest).endEngine.raiseIoerr tok := by
  simp only [State.runEngine, he, hs, readLoop_error]

/-- A waiting engine that is answered more than it requested ends with PROTOCOL (R225). -/
theorem State.runEngine_overlong (he : e.phase = .absorb) {bs : List Byte} (hs : s.srcPort = .bytes bs :: rest)
    (hlong : e.request < bs.length) : s.runEngine k e = (s.leaveAnswers rest).endEngine.raise .protocol := by
  simp only [State.runEngine, he, hs, readLoop_overlong k.block e bs hlong]

end

/-- The bytes read before an Error are lost: only STATUS.CODE and SRCERR are written (R173, R203). -/
theorem State.runEngine_start_error (k : EngineKind L) (lanes : L) {bss : List (List Byte)} {s : State} {tok : Word32}
    {rest : List Answer} (hfit : fitsRequests 0 bss = true) (hs : s.srcPort = bss.map .bytes ++ .error tok :: rest) :
    s.runEngine k (.start lanes) = (s.leaveAnswers rest).endEngine.raiseIoerr tok := by
  rw [State.runEngine_start k lanes hfit hs, State.runEngine_error k rfl rfl]
  rfl

/-- The bytes read before an overlong answer are lost: only STATUS.CODE is written (R173, R203). -/
theorem State.runEngine_start_overlong (k : EngineKind L) (lanes : L) {bss : List (List Byte)} {s : State}
    {bs : List Byte} {rest : List Answer} (hfit : fitsRequests 0 bss = true)
    (hlong : 16 - bss.flatten.length % 16 < bs.length) (hs : s.srcPort = bss.map .bytes ++ .bytes bs :: rest) :
    s.runEngine k (.start lanes) = (s.leaveAnswers rest).endEngine.raise .protocol := by
  rw [State.runEngine_start k lanes hfit hs,
    State.runEngine_overlong k rfl rfl ((Engine.ofInput_request ..).symm ▸ hlong)]
  rfl

/-- A command that reads the source starts an engine, the same in every state. -/
theorem exec_readsSource_start {i : Instr} (h : i.readsSource = true) :
    ∃ (L : Type) (k : EngineKind L) (lanes : L), ∀ s, exec i s = .next (s.runEngine k (.start lanes)) := by
  cases i with
  | x86Hash o => exact ⟨_, _, _, exec_x86Hash o⟩
  | x64Hash o => exact ⟨_, _, _, exec_x64Hash o⟩
  | _ => cases h

/-- Settles O33: whichever engine the command starts, the failing answer finds it waiting and ends it. -/
theorem failedOneShotHasNoEffect : Obligations.FailedOneShotHasNoEffect := by
  unfold Obligations.FailedOneShotHasNoEffect
  intro s i bss rest hi hfit
  obtain ⟨L, k, lanes, hexec⟩ := exec_readsSource_start hi
  refine ⟨fun tok hs => ?_, fun bs hlong hs => ⟨rest, ?_⟩⟩
  · rw [hexec, State.runEngine_start_error k lanes hfit hs]
    rfl
  · rw [hexec, State.runEngine_start_overlong k lanes hfit hlong hs]
    rfl

end Sys2Proof.Machine
end

section
/-! PROOFS. The tail step of the one-shot engines without its tests of the tail's length (R172, R193). -/

namespace Sys2Proof.Machine

/-! ## Zero mixes to zero -/

theorem rotl32_zero (r : Nat) : rotl32 0#32 r = 0#32 := by
  simp [rotl32]

theorem rotl64_zero (r : Nat) : rotl64 0#64 r = 0#64 := by
  simp [rotl64]

theorem kmix86_zero (i : X86Lane) : kmix86 i 0#32 = 0#32 := by
  simp only [kmix86, BitVec.zero_mul, rotl32_zero]

theorem kmix64a_zero : kmix64a 0#64 = 0#64 := by
  simp only [kmix64a, BitVec.zero_mul, rotl64_zero]

theorem kmix64b_zero : kmix64b 0#64 = 0#64 := by
  simp only [kmix64b, BitVec.zero_mul, rotl64_zero]

/-! ## Mixing every tail word -/

/-- A lane mixed under a condition is the lane mixed always, where the mixed word is zero without the condition. -/
theorem ite_xor_eq_xor {w : Nat} {c : Prop} [Decidable c] (h : BitVec w) {m : BitVec w} (hm : ¬ c → m = 0#w) :
    (if c then h ^^^ m else h) = h ^^^ m := by
  split_ifs with hc
  · rfl
  · rw [hm hc, BitVec.xor_zero]

/-- A 32-bit tail word that the tail does not reach mixes to nothing, so it may be mixed without a test (R172). -/
theorem ite_xor_mix_word32At {mix : Word32 → Word32} (hmix : mix 0#32 = 0#32) (h : Word32) (tail : List Byte)
    (j : Nat) :
    (if 4 * j < tail.length then h ^^^ mix (word32At tail j) else h) = h ^^^ mix (word32At tail j) :=
  ite_xor_eq_xor h fun hj => by rw [word32At_beyond tail j (Nat.not_lt.mp hj), hmix]

/-- A 64-bit tail word that the tail does not reach mixes to nothing, so it may be mixed without a test (R193). -/
theorem ite_xor_mix_word64At {mix : Word64 → Word64} (hmix : mix 0#64 = 0#64) (h : Word64) (tail : List Byte)
    (j : Nat) :
    (if 8 * j < tail.length then h ^^^ mix (word64At tail j) else h) = h ^^^ mix (word64At tail j) :=
  ite_xor_eq_xor h fun hj => by rw [word64At_beyond tail j (Nat.not_lt.mp hj), hmix]

theorem x86Tail_eq (l : X86Lanes) (tail : List Byte) : x86Tail l tail =
    ⟨l.h1 ^^^ kmix86 .l1 (word32At tail 0), l.h2 ^^^ kmix86 .l2 (word32At tail 1),
      l.h3 ^^^ kmix86 .l3 (word32At tail 2), l.h4 ^^^ kmix86 .l4 (word32At tail 3)⟩ := by
  simp only [x86Tail, X86Lanes.mk.injEq]
  exact ⟨ite_xor_mix_word32At (kmix86_zero .l1) l.h1 tail 0, ite_xor_mix_word32At (kmix86_zero .l2) l.h2 tail 1,
    ite_xor_mix_word32At (kmix86_zero .l3) l.h3 tail 2, ite_xor_mix_word32At (kmix86_zero .l4) l.h4 tail 3⟩

theorem x64Tail_eq (l : X64Lanes) (tail : List Byte) : x64Tail l tail =
    ⟨l.h1 ^^^ kmix64a (word64At tail 0), l.h2 ^^^ kmix64b (word64At tail 1)⟩ := by
  simp only [x64Tail, X64Lanes.mk.injEq]
  exact ⟨ite_xor_mix_word64At kmix64a_zero l.h1 tail 0, ite_xor_mix_word64At kmix64b_zero l.h2 tail 1⟩

/-- Settles O37: a word the tail does not reach is zero, and every k-mix keeps it zero. -/
theorem zeroTailWordsMixToNothing : Obligations.ZeroTailWordsMixToNothing := by
  unfold Obligations.ZeroTailWordsMixToNothing
  exact ⟨kmix86_zero, kmix64a_zero, kmix64b_zero, x86Tail_eq, x64Tail_eq⟩

end Sys2Proof.Machine
end

section
/-! PROOFS. Where a transaction ends OK (R226), when a context is valid (R223), and which error comes first (R227). -/

namespace Sys2Proof.Machine

/-! ## The contexts that are valid -/

/-- A context is valid after a command exactly when it was so before, or the command is an S32_NEW on it. -/
theorem exec_valid_iff {i : Instr} {s t : State} {c : BitVec 4} {y : Context} (h : exec i s = .next t)
    (hy : t.ctx? c = some y) :
    ∃ x, s.ctx? c = some x ∧ (y.valid = true ↔ x.valid = true ∨ ∃ o, i = .s32New c o) := by
  by_cases hnew : ∃ o, i = .s32New c o
  · obtain ⟨o, rfl⟩ := hnew
    rcases exec_s32New_cases c o s with ⟨hx, ht⟩ | ⟨x, hx, ht⟩
    · cases ht.symm.trans h
      cases hx.symm.trans hy
    · cases ht.symm.trans h
      cases (State.setCtx_ctx?_self _ (State.lt_of_ctx? hx)).symm.trans hy
      exact ⟨x, hx, fun _ => .inr ⟨o, rfl⟩, fun _ => rfl⟩
  · simp only [hnew, or_false]
    rcases exec_ctxs_cases h with hctxs | ⟨d, z, hw, hctxs⟩
    · exact ⟨y, by rwa [State.ctx?, ← hctxs], Iff.rfl⟩
    · rw [State.ctx?, hctxs] at hy
      by_cases hd : d = c
      · subst hd
        cases (List.getElem?_set_self hw.lt_nCtx).symm.trans hy
        cases hw with
        | new o _ => exact absurd ⟨o, rfl⟩ hnew
        | write _ _ hx hv => exact ⟨_, hx, by rw [Context.write_valid]⟩
      · rw [List.getElem?_set_ne fun hdc => hd (BitVec.eq_of_toNat_eq hdc)] at hy
        exact ⟨y, hy, Iff.rfl⟩

theorem execAll_valid_iff {is : List Instr} {s t : State} {c : BitVec 4} {y : Context} (h : execAll is s = .next t)
    (hy : t.ctx? c = some y) :
    ∃ x, s.ctx? c = some x ∧ (y.valid = true ↔ x.valid = true ∨ ∃ o, Instr.s32New c o ∈ is) := by
  induction is generalizing s with
  | nil =>
    cases h
    exact ⟨y, hy, by simp⟩
  | cons i is ih =>
    obtain ⟨u, hu⟩ := exec_next i s
    rw [execAll_cons hu] at h
    obtain ⟨z, hz, hyz⟩ := ih h
    obtain ⟨x, hx, hzx⟩ := exec_valid_iff hu hz
    refine ⟨x, hx, ?_⟩
    simp only [hyz, hzx, or_assoc, List.mem_cons, exists_or, eq_comm (a := i)]

/-- After reset every context is that of R250. -/
theorem ctx?_resetOf {n : Nat} {c : BitVec 4} {x : Context} (h : (State.resetOf n).ctx? c = some x) :
    x = Context.reset :=
  List.eq_of_mem_replicate (List.mem_of_getElem? h)

/-- Settles O26: UNINIT is one case of either command, and a list of commands makes valid exactly the contexts that its
S32_NEWs name. -/
theorem uninitLeavesOnlyStatus : Obligations.UninitLeavesOnlyStatus := by
  unfold Obligations.UninitLeavesOnlyStatus
  refine ⟨fun s c o payload ctx hctx hv hp => ⟨?_, ?_⟩, fun n c is s' ctx h hctx => ?_⟩
  · exact exec_s32Write_invalid o (Nat.lt_succ_of_le hp) hctx hv
  · exact exec_s32Final_invalid o hctx hv
  · obtain ⟨x, hx, hiff⟩ := execAll_valid_iff h hctx
    obtain rfl := ctx?_resetOf hx
    simpa [Context.reset] using hiff

/-! ## Ending OK -/

/-- A waiting engine that is answered End finishes (R226). -/
theorem State.runEngine_end {L : Type} (k : EngineKind L) {e : Engine L} {s : State} {a : Answer} {rest : List Answer}
    (he : e.phase = .absorb) (ha : a.isEnd = true) (hs : s.srcPort = a :: rest) :
    s.runEngine k e = (s.leaveAnswers rest).finishEngine k { e with phase := .final } := by
  simp only [State.runEngine, he, hs, readLoop_end k.block e ha]

/-- Answers that fit and then End bring an engine from its start to its digest, in RES with OK. -/
theorem State.runEngine_start_end {L : Type} (k : EngineKind L) (lanes : L) {bss : List (List Byte)} {s : State}
    {a : Answer} {rest : List Answer} (hfit : fitsRequests 0 bss = true) (ha : a.isEnd = true)
    (hs : s.srcPort = bss.map .bytes ++ a :: rest) :
    s.runEngine k (.start lanes) = (s.leaveAnswers rest).endEngine.respond
      (k.digest { Engine.ofInput k.block lanes bss.flatten with phase := .final }) := by
  rw [State.runEngine_start k lanes hfit hs, State.runEngine_end k rfl ha rfl]
  rfl

/-- Settles O41: each command's case without an error, and for the one-shots the engine that is answered End. -/
theorem commandsCompleteOk : Obligations.CommandsCompleteOk := by
  unfold Obligations.CommandsCompleteOk
  refine ⟨fun s r opd hr => exec_rotl32_nonzero hr opd s, fun s r opd hr => exec_rotl64_nonzero hr opd s,
    fun s opd => exec_fmix32 opd s, fun s opd => exec_fmix64 opd s, fun s c opd hc => ?_,
    fun s c opd payload ctx hctx hv hp => exec_s32Write_valid opd (Nat.lt_succ_of_le hp) hctx hv,
    fun s c opd ctx hctx hv => exec_s32Final_valid opd hctx hv, fun s i bss a rest hi hfit ha hs => ?_⟩
  · obtain ⟨x, hx⟩ := State.ctx?_of_lt hc
    exact exec_s32New_present opd hx
  · obtain ⟨L, k, lanes, hexec⟩ := exec_readsSource_start hi
    rw [hexec, State.runEngine_start_end k lanes hfit ha hs]
    exact ⟨_, rfl, State.respond_code _ _, State.respond_engine _ _, State.respond_resWritten _ _⟩

/-! ## The first error -/

/-- The payload of an S32_WRITE that decodes has a length that LEN can say (R79). -/
theorem decode_s32Write_payload {nCtx : Nat} {t : Transaction} {c : BitVec 4} {o : Word64} {p : List Byte}
    (h : decode nCtx t = .ok (.s32Write c o p)) : p.length < Config.payloadLimit := by
  obtain ⟨op, -, -, -, -, hpay, hop⟩ := decode_eq_ok.mp h
  cases op with
  | s32Write =>
    cases hop
    rw [beq_iff_eq.mp hpay]
    exact t.len.isLt
  | _ => cases hop

/-- A ready transaction that decodes runs its command. -/
theorem step_of_decode {s : State} {t : Transaction} {i : Instr} (hs : s.Ready t) (h : decode s.nCtx t = .ok i) :
    step s = exec i s.popCommand :=
  (step_ready hs).trans (accept_ok h)

/-- Settles O42: the decoder comes before the command, the context's VALID before its effect, and the first answer that
fails ends the engine whatever stands behind it. -/
theorem errorPriority : Obligations.ErrorPriority := by
  unfold Obligations.ErrorPriority
  refine ⟨fun s t why hs hwhy => ?_, fun s t i c ctx hs hi hic hctx hv => ?_,
    fun s t i bss rest hs hi hreads hfit => ?_⟩
  · rw [step_ready hs]
    exact ⟨_, accept_error hwhy, State.raise_code _ _⟩
  · rw [step_of_decode hs hi]
    refine ⟨s.popCommand.raise .uninit, ?_, State.raise_code _ _⟩
    rcases hic with ⟨o, payload, rfl⟩ | ⟨o, rfl⟩
    · exact exec_s32Write_invalid o (decode_s32Write_payload hi) hctx hv
    · exact exec_s32Final_invalid o hctx hv
  · obtain ⟨L, k, lanes, hexec⟩ := exec_readsSource_start hreads
    rw [step_of_decode hs hi, hexec]
    refine ⟨fun tok hsrc => ⟨_, rfl, ?_⟩, fun bs hlong hsrc => ⟨_, rfl, ?_⟩⟩
    · rw [State.runEngine_start_error (s := s.popCommand) k lanes hfit hsrc, State.raiseIoerr_code]
    · rw [State.runEngine_start_overlong (s := s.popCommand) k lanes hfit hlong hsrc, State.raise_code]
      rfl

end Sys2Proof.Machine
end

section
/-! PROOFS. Reset: only it makes a valid context invalid (R252), and it abandons the transaction in progress (R251). -/

namespace Sys2Proof.Machine

/-! ## Valid contexts stay valid -/

/-- What a command writes to a context is valid: a fresh context, or a valid one with more bytes. -/
theorem CtxWrite.valid {s : State} {i : Instr} {c : BitVec 4} {x : Context} (h : CtxWrite s i c x) :
    x.valid = true := by
  cases h with
  | new o _ => rfl
  | write _ _ _ hv => rwa [Context.write_valid]

theorem exec_keeps_valid {i : Instr} {s t : State} {k : Nat} {c : Context} (h : exec i s = .next t)
    (hc : s.ctxs[k]? = some c) (hv : c.valid = true) : ∃ d, t.ctxs[k]? = some d ∧ d.valid = true := by
  rcases exec_ctxs_cases h with hctxs | ⟨e, x, hw, hctxs⟩ <;> rw [hctxs]
  · exact ⟨c, hc, hv⟩
  · by_cases hek : e.toNat = k
    · subst hek
      exact ⟨x, List.getElem?_set_self hw.lt_nCtx, hw.valid⟩
    · rw [List.getElem?_set_ne hek]
      exact ⟨c, hc, hv⟩

theorem step_keeps_valid {s t : State} {k : Nat} {c : Context} (hreset : s.resetLine = false) (h : step s = .next t)
    (hc : s.ctxs[k]? = some c) (hv : c.valid = true) : ∃ d, t.ctxs[k]? = some d ∧ d.valid = true := by
  rcases step_cases h with ⟨hr, -⟩ | ⟨-, f, -, rfl⟩ | ⟨-, -, -, rfl⟩ | ⟨-, -, u, i, -, -, hexec⟩ | ⟨-, -, _, _, -, -, rfl⟩
  · cases hreset.symm.trans hr
  · rw [State.resume_ctxs]
    exact ⟨c, hc, hv⟩
  · exact ⟨c, hc, hv⟩
  · exact exec_keeps_valid hexec hc hv
  · exact ⟨c, hc, hv⟩

/-! ## The state a reset gives -/

theorem State.takeReset_invalid (s : State) : ∀ c ∈ s.takeReset.ctxs, c.valid = false := by
  intro c hc
  rw [State.takeReset_ctxs] at hc
  rw [List.eq_of_mem_replicate hc]
  rfl

@[simp] theorem State.takeReset_readRes (s : State) : s.takeReset.readRes = .error .unwrittenRes := rfl

@[simp] theorem State.takeReset_readSrcerr (s : State) : s.takeReset.readSrcerr = .error .unwrittenSrcerr := rfl

@[simp] theorem State.takeReset_pendingRequest (s : State) : s.takeReset.pendingRequest = none := rfl

/-- Settles O51: a command writes only valid contexts and no other step but a reset writes any; a reset replaces the
whole file; S32_NEW does not look at VALID. -/
theorem onlyResetInvalidates : Obligations.OnlyResetInvalidates := by
  unfold Obligations.OnlyResetInvalidates
  refine ⟨fun s t k c => step_keeps_valid, fun s t hr h => ?_, fun s k c opd hc _ => exec_s32New_present opd hc⟩
  cases (step_reset hr).symm.trans h
  exact s.takeReset_invalid

/-- Settles O52: the reset comes before a held transaction and before the command port, so the step is the reset alone. -/
theorem resetAbandonsTheTransaction : Obligations.ResetAbandonsTheTransaction := by
  unfold Obligations.ResetAbandonsTheTransaction
  exact fun s hr => ⟨s.takeReset, step_reset hr, s.takeReset_readRes, s.takeReset_readSrcerr, s.takeReset_status,
    s.takeReset_nCtx, s.takeReset_invalid, s.takeReset_engine, s.takeReset_pendingRequest, s.takeReset_resetLine⟩

end Sys2Proof.Machine
end

section
/-! PROOFS. The decoder and the encoder are inverse to each other: no bit of a transaction is lost, and what is decoded
is well formed (sections 2 to 4 of 30_encoding.md). -/

namespace Sys2Proof

/-! ## A transaction from its fields -/

/-- A transaction is rebuilt from its opcode, the 24 bits below it, its operand and its payload. -/
theorem Transaction.eq_of_body {t : Transaction} {op : Opcode} {body : BitVec 24} {p : List Byte}
    (hopc : t.opc = op.byte) (hbody : body = t.cmd.extractLsb' 0 24) (hpay : t.payload = p) :
    (⟨commandWord op body, t.opd, p⟩ : Transaction) = t := by
  rw [hbody, commandWord_of_fields t.cmd op hopc, ← hpay]

theorem Format.payload_eq_nil {f : Format} {t : Transaction} (hf : f ≠ .cl) (h : f.payloadFits t = true) :
    t.payload = [] := by
  cases f with
  | cl => exact absurd rfl hf
  | n | r32 | r64 | c => exact List.length_eq_zero_iff.mp (beq_iff_eq.mp h)

/-- The fields of a word of format R32 lay out its 24 bits below OPC. -/
theorem bodyR32_rot32 {t : Transaction} (h : Format.r32.reservedClear t.cmd = true) :
    bodyR32 t.rot32 = t.cmd.extractLsb' 0 24 := by
  have hfields := bodyR32_of_fields (t.cmd.extractLsb' 0 24)
  rw [extract_extract _ _ _ _ _ _ (by decide), extract_extract _ _ _ _ _ _ (by decide)] at hfields
  exact hfields (beq_iff_eq.mp h)

/-- The same for format R64. -/
theorem bodyR64_rot64 {t : Transaction} (h : Format.r64.reservedClear t.cmd = true) :
    bodyR64 t.rot64 = t.cmd.extractLsb' 0 24 := by
  have hfields := bodyR64_of_fields (t.cmd.extractLsb' 0 24)
  rw [extract_extract _ _ _ _ _ _ (by decide), extract_extract _ _ _ _ _ _ (by decide)] at hfields
  exact hfields (beq_iff_eq.mp h)

/-- The same for format CL. -/
theorem bodyC_ctx_len (t : Transaction) : bodyC t.ctx t.len = t.cmd.extractLsb' 0 24 := by
  have hfields := bodyC_of_fields (t.cmd.extractLsb' 0 24)
  rwa [extract_extract _ _ _ _ _ _ (by decide), extract_extract _ _ _ _ _ _ (by decide)] at hfields

/-- The same for format C, whose low 20 bits are reserved. -/
theorem bodyC_ctx_zero {t : Transaction} (h : Format.c.reservedClear t.cmd = true) :
    bodyC t.ctx 0#20 = t.cmd.extractLsb' 0 24 := by
  rw [← bodyC_ctx_len, show t.len = 0#20 from beq_iff_eq.mp h]

/-! ## What is decoded -/

/-- The command read from a transaction that passes the decoder's checks is encoded as that transaction. -/
theorem encode_instr {op : Opcode} {t : Transaction} (hopc : t.opc = op.byte)
    (hres : op.format.reservedClear t.cmd = true) (hpay : op.format.payloadFits t = true) :
    encode (op.instr t) = t := by
  cases op with
  | rotl32 => exact Transaction.eq_of_body hopc (bodyR32_rot32 hres) (Format.payload_eq_nil (by decide) hpay)
  | rotl64 => exact Transaction.eq_of_body hopc (bodyR64_rot64 hres) (Format.payload_eq_nil (by decide) hpay)
  | fmix32 | fmix64 | x86Hash | x64Hash =>
    exact Transaction.eq_of_body hopc (beq_iff_eq.mp hres).symm (Format.payload_eq_nil (by decide) hpay)
  | s32New | s32Final =>
    exact Transaction.eq_of_body hopc (bodyC_ctx_zero hres) (Format.payload_eq_nil (by decide) hpay)
  | s32Write =>
    have hlen : BitVec.ofNat 20 t.payload.length = t.len := by
      rw [beq_iff_eq.mp hpay, BitVec.ofNat_toNat, BitVec.setWidth_eq]
    exact Transaction.eq_of_body hopc (by rw [hlen, bodyC_ctx_len]) rfl

/-- It is well formed. -/
theorem instr_wf {nCtx : Nat} {op : Opcode} {t : Transaction} (hrot : op.format.rotateNonzero t = true)
    (hctx : op.format.ctxExists nCtx t = true) (hpay : op.format.payloadFits t = true) :
    (op.instr t).wf nCtx = true := by
  cases op with
  | rotl32 | rotl64 => exact hrot
  | s32New | s32Final => exact hctx
  | s32Write =>
    have hlt : t.payload.length < Config.payloadLimit := beq_iff_eq.mp hpay ▸ t.len.isLt
    exact Bool.and_eq_true_iff.mpr ⟨hctx, decide_eq_true hlt⟩
  | fmix32 | fmix64 | x86Hash | x64Hash => rfl

/-- A transaction that decodes has the payload length that OPC and LEN say (R71). -/
theorem payload_length_of_decode {nCtx : Nat} {t : Transaction} {i : Instr} (h : decode nCtx t = .ok i) :
    t.payload.length = Transaction.payloadBytes t.cmd := by
  obtain ⟨op, hopc, -, -, -, hpay, -⟩ := decode_eq_ok.mp h
  unfold Transaction.payloadBytes
  rw [show t.cmd.extractLsb' 24 8 = op.byte from hopc]
  cases op <;> exact beq_iff_eq.mp hpay

/-- Settles O2: the encoded word has the opcode, clear reserved bits and the fields of the command, and a well-formed
command passes the other checks. -/
theorem decodeOfEncode : Obligations.DecodeOfEncode := by
  unfold Obligations.DecodeOfEncode
  exact fun nCtx i => decode_encode

/-- Settles O3: the checks the decoder has made say that the word is its fields and that the command is well formed. -/
theorem encodeOfDecode : Obligations.EncodeOfDecode := by
  unfold Obligations.EncodeOfDecode
  intro nCtx t i h
  obtain ⟨op, hopc, hres, hrot, hctx, hpay, rfl⟩ := decode_eq_ok.mp h
  exact ⟨instr_wf hrot hctx hpay, encode_instr hopc hres hpay⟩

/-- Settles O4: the decoder's check of the payload's length is what OPC and LEN say of it. -/
theorem lengthFromCommandWord : Obligations.LengthFromCommandWord := by
  unfold Obligations.LengthFromCommandWord
  intro nCtx t i h
  have hlen := payload_length_of_decode h
  refine ⟨fun hopc => ?_, fun hopc => ?_, by rw [Transaction.byteLength, hlen]⟩
  · rw [hlen, Transaction.payloadBytes, if_pos hopc]
  · rw [hlen, Transaction.payloadBytes, if_neg hopc]

/-- Settles O1: each word is decoded by evaluation. -/
theorem decodedWordsOfTheSpec : Obligations.DecodedWordsOfTheSpec := by
  unfold Obligations.DecodedWordsOfTheSpec
  exact ⟨rfl, rfl, rfl, rfl, rfl, rfl, rfl, rfl, rfl, rfl, rfl, rfl, rfl, rfl, rfl, rfl, rfl⟩

end Sys2Proof

namespace Sys2Proof.Machine

/-! ## The assembler's other lines (R81) -/

/-- A command word as R81's sum of its opcode and the rest. -/
theorem commandWord_eq_sum (op : Opcode) (body : BitVec 24) :
    commandWord op body = BitVec.ofNat 32 (op.byte.toNat * 2 ^ 24) + BitVec.ofNat 32 body.toNat := by
  rw [commandWord_eq_ofNat, BitVec.ofNat_add]

theorem bodyR32_toNat {r : Nat} (h : r < 32) : (bodyR32 (BitVec.ofNat 5 r)).toNat = r := by
  rw [bodyR32, append_toNat, BitVec.toNat_ofNat, BitVec.toNat_ofNat, Nat.mod_eq_of_lt h]
  omega

theorem bodyR64_toNat {r : Nat} (h : r < 64) : (bodyR64 (BitVec.ofNat 6 r)).toNat = r := by
  rw [bodyR64, append_toNat, BitVec.toNat_ofNat, BitVec.toNat_ofNat, Nat.mod_eq_of_lt h]
  omega

theorem asmRotl32_eq_encode {r : Nat} (h : r < 32) (x : Word32) :
    asmRotl32 r x = encode (.rotl32 (BitVec.ofNat 5 r) (x.setWidth 64)) := by
  have hword := commandWord_eq_sum .rotl32 (bodyR32 (BitVec.ofNat 5 r))
  rw [bodyR32_toNat h] at hword
  exact congrArg (Transaction.mk · (x.setWidth 64) []) hword.symm

theorem asmRotl64_eq_encode {r : Nat} (h : r < 64) (x : Word64) :
    asmRotl64 r x = encode (.rotl64 (BitVec.ofNat 6 r) x) := by
  have hword := commandWord_eq_sum .rotl64 (bodyR64 (BitVec.ofNat 6 r))
  rw [bodyR64_toNat h] at hword
  exact congrArg (Transaction.mk · x []) hword.symm

/-- Settles O55: the sums of R81 are the words of the formats, and a payload that fits LEN is one piece. -/
theorem assemblerMatchesEncoder : Obligations.AssemblerMatchesEncoder := by
  unfold Obligations.AssemblerMatchesEncoder
  refine ⟨fun r x hr => congrArg (fun t => [t]) (asmRotl32_eq_encode hr x),
    fun r x hr => congrArg (fun t => [t]) (asmRotl64_eq_encode hr x), fun x => rfl, fun x => rfl,
    fun c seed hc => congrArg (fun t => [t]) (asmNew_eq_encode hc seed), fun c bytes hc hlen => ?_,
    fun c hc => congrArg (fun t => [t]) (asmFinal_eq_encode hc), fun seed => rfl, fun seed => rfl⟩
  rw [assemble_s32Write, splitPayload_of_le hlen, List.map_singleton, asmWrite_eq_encode hc (Nat.lt_succ_of_le hlen)]

end Sys2Proof.Machine
end

section
/-! PROOFS. A step always goes on, and idle steps run the commands of the port one after the other (R62, R229, R254). -/

namespace Sys2Proof.Machine

/-! ## One step -/

theorem accept_next (s : State) (t : Transaction) : ∃ u, s.accept t = .next u := by
  rcases decode_cases s.nCtx t with ⟨i, hi⟩ | ⟨why, hwhy⟩
  · rw [accept_ok hi]
    exact exec_next i s
  · exact ⟨_, accept_error hwhy⟩

theorem step_next (s : State) : ∃ t, step s = .next t := by
  cases hr : s.resetLine with
  | true => exact ⟨_, step_reset hr⟩
  | false =>
    cases he : s.engine with
    | some f => exact ⟨_, step_held hr he⟩
    | none =>
      cases hc : s.cmdPort with
      | nil => exact ⟨_, step_idle hr he hc⟩
      | cons u us =>
        rw [step_ready (t := u) ⟨hr, he, by rw [hc, List.head?_cons]⟩]
        exact accept_next _ u

/-- Settles O8: each situation of a step, and each command, answers a next state. -/
theorem stepAlwaysGoesOn : Obligations.StepAlwaysGoesOn := by
  unfold Obligations.StepAlwaysGoesOn
  exact step_next

/-- Settles O7: a transaction placed on the port of an idle block is ready, and taking it off undoes the placing. -/
theorem stepRunsTheDecodedCommand : Obligations.StepRunsTheDecodedCommand := by
  unfold Obligations.StepRunsTheDecodedCommand
  refine ⟨fun s t i hs hi => step_of_decode hs hi, fun s nbits w i hi => ?_⟩
  exact step_of_decode (s := s.withFetchWord nbits w) ⟨rfl, rfl, rfl⟩ hi

/-! ## A sequence of commands -/

/-- A command that does not read the source leaves the ports, the reset line and the engine alone, and does the same
whatever stands on the command port. -/
theorem exec_with_cmdPort {i : Instr} (hi : i.readsSource = false) (s : State) (port : List Transaction) :
    ∃ u, exec i s = .next u ∧ exec i { s with cmdPort := port } = .next { u with cmdPort := port } ∧
      u.resetLine = s.resetLine ∧ u.engine = s.engine ∧ u.nCtx = s.nCtx := by
  rcases exec_plain_local hi (s := s) (s' := { s with cmdPort := port }) fun _ _ => rfl with
    ⟨k, hk, hk'⟩ | ⟨v, hv, hv'⟩ | ⟨c, x, -, hx, hx'⟩
  · exact ⟨_, hk, hk', rfl, rfl, rfl⟩
  · exact ⟨_, hv, hv', rfl, rfl, rfl⟩
  · exact ⟨_, hx, hx', rfl, rfl, State.setCtx_nCtx c x s⟩

theorem run_succ {s t : State} (h : step s = .next t) (n : Nat) :
    Host.Core.run core (n + 1) s = Host.Core.run core n t := by
  have hcore : core.step s = .next t := h
  simp only [Host.Core.run, hcore]

/-- An idle block runs the commands of its port one a step. -/
theorem run_commands (is : List Instr) {s : State} (rest : List Transaction) (hr : s.resetLine = false)
    (he : s.engine = none) (his : ∀ i ∈ is, i.wf s.nCtx = true ∧ i.readsSource = false) :
    ∃ t, execAll is s = .next t ∧
      Host.Core.run core is.length { s with cmdPort := is.map encode ++ rest } = .next { t with cmdPort := rest } := by
  induction is generalizing s with
  | nil => exact ⟨s, rfl, rfl⟩
  | cons i is ih =>
    obtain ⟨⟨hwf, hplain⟩, his⟩ := List.forall_mem_cons.mp his
    obtain ⟨u, hu, hport, hur, hue, hun⟩ := exec_with_cmdPort hplain s (is.map encode ++ rest)
    have hstep : step { s with cmdPort := (i :: is).map encode ++ rest } =
        .next { u with cmdPort := is.map encode ++ rest } :=
      (step_of_decode (s := { s with cmdPort := (i :: is).map encode ++ rest }) ⟨hr, he, rfl⟩
        (decode_encode hwf)).trans hport
    obtain ⟨t, ht, hrun⟩ := ih (hur.trans hr) (hue.trans he) (hun ▸ his)
    exact ⟨t, (execAll_cons hu is).trans ht, (run_succ hstep is.length).trans hrun⟩

/-- Settles O10: a step decodes the next encoded command and runs it, and a command does not see the port behind it. -/
theorem commandSequenceRuns : Obligations.CommandSequenceRuns := by
  unfold Obligations.CommandSequenceRuns
  intro s is rest hr he hport his
  have hs : s = { s with cmdPort := is.map encode ++ rest } := by rw [← hport]
  obtain ⟨t, ht, hrun⟩ := run_commands is rest hr he his
  exact ⟨t, ht, by rw [hs]; exact hrun⟩

end Sys2Proof.Machine
end

section
/-! PROOFS. Single bits and bytes of words: what a rotate does to a bit (R100, R101), and where a byte of a list stands
in a little-endian word (R54). -/

namespace Sys2Proof.Machine

/-! ## Bits of a rotated word -/

/-- Bit `i` of a word rotated left by `r` is bit `(i - r) mod w` of the word. -/
theorem getLsbD_rotateLeft_eq {w : Nat} (x : BitVec w) {r i : Nat} (hr1 : 1 ≤ r) (hr : r < w) (hi : i < w) :
    (x.rotateLeft r).getLsbD i = x.getLsbD ((i + w - r) % w) := by
  rw [BitVec.getLsbD_rotateLeft, Nat.mod_eq_of_lt hr]
  rcases Nat.lt_or_ge i r with hwrap | hwrap
  · have hto : (i + w - r) % w = w - r + i := by rw [Nat.mod_eq_of_lt (by omega)]; omega
    rw [decide_eq_true hwrap, cond_true, hto]
  · have hto : (i + w - r) % w = i - r := by
      rw [show i + w - r = i - r + w by omega, Nat.add_mod_right, Nat.mod_eq_of_lt (by omega)]
    rw [decide_eq_false (Nat.not_lt.mpr hwrap), cond_false, hto, decide_eq_true hi, Bool.true_and]

/-- Settles O15: the shifts are the library's rotate, which moves the bits in a circle. -/
theorem rotateMovesBits : Obligations.RotateMovesBits := by
  unfold Obligations.RotateMovesBits
  refine ⟨fun x r i hr1 hr hi => ?_, fun x r i hr1 hr hi => ?_⟩
  · rw [rotl32_eq_rotateLeft x (by omega), getLsbD_rotateLeft_eq x hr1 (by omega) hi]
  · rw [rotl64_eq_rotateLeft x (by omega), getLsbD_rotateLeft_eq x hr1 (by omega) hi]

/-! ## Bytes of a little-endian word -/

/-- Byte `j` of four bytes put side by side is the `j`-th of them. -/
theorem le32_byte (f : Nat → Byte) {j : Nat} (hj : j < 4) :
    (le32 (f 0) (f 1) (f 2) (f 3)).extractLsb' (8 * j) 8 = f j := by
  have hfold : le32 (f 0) (f 1) (f 2) (f 3) =
      (List.range 4).foldl (fun k i => k ||| (f i).setWidth 32 <<< (8 * i)) 0#32 := by
    simp [le32, List.range_succ]
  rw [hfold, foldl_placed_byte f (le_refl 4) hj, if_pos hj]

/-- Byte `j` of eight bytes put side by side is the `j`-th of them. -/
theorem le64_byte (f : Nat → Byte) {j : Nat} (hj : j < 8) :
    (le64 (f 0) (f 1) (f 2) (f 3) (f 4) (f 5) (f 6) (f 7)).extractLsb' (8 * j) 8 = f j := by
  have hplaced : ∀ k, k < 8 → ((f k).setWidth 64 <<< (8 * k)).extractLsb' (8 * j) 8 = if j = k then f k else 0#8 :=
    fun k hk => placed_byte 8 (f k) k j hk hj
  have h0 := hplaced 0 (by decide)
  rw [Nat.mul_zero, BitVec.shiftLeft_zero] at h0
  simp only [le64, BitVec.extractLsb'_or, h0, hplaced 1 (by decide), hplaced 2 (by decide), hplaced 3 (by decide),
    hplaced 4 (by decide), hplaced 5 (by decide), hplaced 6 (by decide), hplaced 7 (by decide)]
  interval_cases j <;> simp

/-- Settles O38: a word is put together from the bytes at its offset, and a missing byte reads as zero. -/
theorem littleEndianWords : Obligations.LittleEndianWords := by
  unfold Obligations.LittleEndianWords
  exact ⟨fun bs i j hj => le32_byte (fun k => bs.getD (4 * i + k) 0#8) hj,
    fun bs i j hj => le64_byte (fun k => bs.getD (8 * i + k) 0#8) hj⟩

end Sys2Proof.Machine
end

section
/-! PROOFS. What the commands that do not read the source leave unchanged (section 2 of 40_primitives.md and of
41_stream32.md). -/

namespace Sys2Proof.Machine

theorem Code.bits_ne_zero {k : Code} (h : k ≠ .ok) : k.bits ≠ 0#3 := by
  cases k with
  | ok => exact absurd rfl h
  | illegal | uninit | ioerr | protocol => decide

/-- S32_NEW and S32_WRITE either raise a code other than OK or write the context they name. -/
theorem exec_contextCommand_cases {i : Instr} {c : BitVec 4}
    (hi : (∃ o, i = .s32New c o) ∨ ∃ o p, i = .s32Write c o p) (s : State) :
    (∃ k, k ≠ .ok ∧ exec i s = .next (s.raise k)) ∨
    ∃ x, CtxWrite s i c x ∧ exec i s = .next ((s.setCtx c x).setCode .ok) := by
  rcases hi with ⟨o, rfl⟩ | ⟨o, p, rfl⟩
  · rcases exec_s32New_cases c o s with ⟨-, h⟩ | ⟨x, hx, h⟩
    · exact .inl ⟨.illegal, by decide, h⟩
    · exact .inr ⟨_, .new o hx, h⟩
  · rcases exec_s32Write_cases c o p s with ⟨-, h⟩ | ⟨_, -, -, -, h⟩ | ⟨x, hp, hx, hv, h⟩
    · exact .inl ⟨.illegal, by decide, h⟩
    · exact .inl ⟨.uninit, by decide, h⟩
    · exact .inr ⟨_, .write o hp hx hv, h⟩

/-- An S32_WRITE keeps VALID and SEED of the context it writes. -/
theorem CtxWrite.keeps_seed {s : State} {c : BitVec 4} {o : Word64} {p : List Byte} {x y : Context}
    (h : CtxWrite s (.s32Write c o p) c x) (hy : s.ctx? c = some y) : x.valid = y.valid ∧ x.seed = y.seed := by
  cases h with
  | write _ _ hz _ =>
    cases hz.symm.trans hy
    exact ⟨Context.write_valid _ _, Context.write_seed _ _⟩

/-- Settles O17: each of the commands raises a code, which writes STATUS alone, or responds, which writes RES too and
ends OK. -/
theorem resultCommandsFrame : Obligations.ResultCommandsFrame := by
  unfold Obligations.ResultCommandsFrame
  intro i s t hi h
  have hplain : i.readsSource = false := by
    rcases hi with ⟨r, o, rfl⟩ | ⟨r, o, rfl⟩ | ⟨o, rfl⟩ | ⟨o, rfl⟩ | ⟨c, o, rfl⟩ <;> rfl
  rcases exec_plain_cases hplain s with ⟨k, -, hk⟩ | ⟨v, hv, -, -⟩ | ⟨c, x, -, -, -, -, hic⟩
  · cases hk.symm.trans h
    exact ⟨rfl, rfl, rfl, rfl, rfl, rfl, rfl, status_reserved _ _, fun _ => ⟨rfl, rfl⟩⟩
  · cases hv.symm.trans h
    exact ⟨rfl, rfl, rfl, rfl, rfl, rfl, rfl, status_reserved _ _, fun hcode => absurd (State.respond_code v s) hcode⟩
  · rcases hic with ⟨o', rfl⟩ | ⟨o', p, rfl⟩ <;> simp at hi

/-- Settles O27: either command raises a code, which writes STATUS alone, or writes its own context and ends OK. -/
theorem contextCommandsFrame : Obligations.ContextCommandsFrame := by
  unfold Obligations.ContextCommandsFrame
  intro i c s t hi h
  rcases exec_contextCommand_cases hi s with ⟨k, -, hk⟩ | ⟨x, hw, hx⟩
  · cases hk.symm.trans h
    exact ⟨rfl, rfl, rfl, rfl, rfl, rfl, rfl, rfl, status_reserved _ _, rfl, fun _ _ => rfl, fun _ => rfl,
      fun _ _ ctx _ hctx => ⟨ctx, hctx, rfl, rfl⟩⟩
  · cases hx.symm.trans h
    refine ⟨rfl, rfl, rfl, rfl, rfl, rfl, rfl, rfl, status_reserved _ _, s.setCtx_nCtx c x,
      fun k hk => s.setCtx_get_ne c x hk.symm, fun hcode => absurd (State.setCode_code .ok _) hcode,
      fun o payload ctx hio hctx => ?_⟩
    subst hio
    exact ⟨x, List.getElem?_set_self hw.lt_nCtx, hw.keeps_seed hctx⟩

end Sys2Proof.Machine
end

section
/-! PROOFS. The one-shot engines from one SourceRead to the next: how they are held (R55, R58), that it does not matter
when the answers arrive (R259), that they end with their source (R233), and what they leave unchanged. -/

namespace Sys2Proof.Machine

variable {L : Type}

/-! ## The two engines of the block -/

/-- The engine's in-flight state stands in the state under its own constructor: going on with it is running this engine,
and it is in phase ABSORB with its bytes in BUF when the in-flight state says so. -/
structure EngineKind.Resumes (k : EngineKind L) : Prop where
  resume : ∀ (e : Engine L) (s : State), s.resume (k.inFlight e) = s.runEngine k e
  request : ∀ (e : Engine L) (s : State), s.engine = some (k.inFlight e) → s.pendingRequest = some e.request
  waiting : ∀ e : Engine L, (k.inFlight e).waiting ↔ e.waiting

theorem x86Kind_resumes : x86Kind.Resumes :=
  ⟨fun _ _ => rfl, fun e s h => by rw [State.pendingRequest, h]; rfl, fun _ => Iff.rfl⟩

theorem x64Kind_resumes : x64Kind.Resumes :=
  ⟨fun _ _ => rfl, fun e s h => by rw [State.pendingRequest, h]; rfl, fun _ => Iff.rfl⟩

/-- A transaction in progress is an engine of one of the two kinds. -/
theorem InFlight.exists_kind (f : InFlight) :
    ∃ (L : Type) (k : EngineKind L) (e : Engine L), k.Resumes ∧ f = k.inFlight e := by
  cases f with
  | x86 e => exact ⟨_, x86Kind, e, x86Kind_resumes, rfl⟩
  | x64 e => exact ⟨_, x64Kind, e, x64Kind_resumes, rfl⟩

/-- A command that reads the source starts an engine of one of the two kinds, the same in every state. -/
theorem exec_readsSource_kind {i : Instr} (h : i.readsSource = true) :
    ∃ (L : Type) (k : EngineKind L) (lanes : L), k.Resumes ∧ ∀ s, exec i s = .next (s.runEngine k (.start lanes)) := by
  cases i with
  | x86Hash o => exact ⟨_, _, _, x86Kind_resumes, exec_x86Hash o⟩
  | x64Hash o => exact ⟨_, _, _, x64Kind_resumes, exec_x64Hash o⟩
  | _ => cases h

/-- A block that holds an engine runs it in the next step. -/
theorem step_engine {k : EngineKind L} (hk : k.Resumes) {s : State} {e : Engine L} (hr : s.resetLine = false)
    (he : s.engine = some (k.inFlight e)) : step s = .next (s.runEngine k e) := by
  rw [step_held hr he, hk.resume]

/-! ## A SourceRead that has no answer -/

theorem State.runEngine_unanswered (k : EngineKind L) {e : Engine L} {s : State} (he : e.phase = .absorb)
    (hs : s.srcPort = []) : s.runEngine k e = s.hold (k.inFlight e) := by
  have hleave : s.leaveAnswers [] = s := by rw [← hs]; rfl
  simp only [State.runEngine, he, hs, readLoop_nil, hleave]

theorem State.hold_self {s : State} {f : InFlight} (h : s.engine = some f) : s.hold f = s := by
  rw [State.hold, ← h]

theorem step_engine_unanswered {k : EngineKind L} (hk : k.Resumes) {s : State} {e : Engine L}
    (hr : s.resetLine = false) (he : s.engine = some (k.inFlight e)) (hphase : e.phase = .absorb)
    (hs : s.srcPort = []) : step s = .next s := by
  rw [step_engine hk hr he, State.runEngine_unanswered k hphase hs, State.hold_self he]

theorem step_unanswered {s : State} {f : InFlight} (hr : s.resetLine = false) (hf : s.engine = some f)
    (hw : f.waiting) (hs : s.srcPort = []) : step s = .next s := by
  obtain ⟨L, k, e, hk, rfl⟩ := f.exists_kind
  obtain ⟨hphase, -, -⟩ := (hk.waiting e).mp hw
  exact step_engine_unanswered hk hr hf hphase hs

theorem Engine.ofInput_waiting (block : L → List Byte → L) (lanes : L) (S : List Byte) :
    (Engine.ofInput block lanes S).waiting := by
  have hlen := tailOf_length S
  exact ⟨rfl, hlen ▸ Nat.mod_lt _ (by decide), hlen.symm⟩

/-- Settles O9: with nothing on either port there is nothing to run, and an engine with no answer is held as it is. -/
theorem idleAndHeldPersist : Obligations.IdleAndHeldPersist := by
  unfold Obligations.IdleAndHeldPersist
  refine ⟨fun s hq => ?_, fun s f hr hf hw hs => step_unanswered hr hf hw hs⟩
  simp only [State.quiescent, Bool.and_eq_true, List.isEmpty_iff, Option.isNone_iff_eq_none, Bool.not_eq_true'] at hq
  obtain ⟨⟨hport, hengine⟩, hreset⟩ := hq
  exact step_idle hreset hengine hport

/-- Settles O34: after answers that fit the engine is that of their bytes, and its tail is the bytes since the last
block. -/
theorem heldOnTheNextRequest : Obligations.HeldOnTheNextRequest := by
  unfold Obligations.HeldOnTheNextRequest
  intro s i bss hi hfit hs hr
  obtain ⟨L, k, lanes, hk, hexec⟩ := exec_readsSource_kind hi
  have hport : s.srcPort = bss.map .bytes ++ [] := by rw [hs, List.append_nil]
  have hheld : exec i s =
      .next (State.hold (k.inFlight (.ofInput k.block lanes bss.flatten)) { s with srcPort := [] }) := by
    rw [hexec, State.runEngine_start k lanes hfit hport, State.runEngine_unanswered k rfl rfl]
  refine ⟨_, hheld, ?_, rfl, ?_⟩
  · rw [hk.request _ _ rfl, Engine.ofInput_request]
  · exact step_unanswered hr rfl ((hk.waiting _).mpr (Engine.ofInput_waiting k.block lanes _)) rfl

/-! ## What an engine leaves unchanged -/

/-- What running an engine from `s` to `t` leaves as it was (R33, R58, R221): always; while the transaction is held;
unless it ends OK; unless it ends IOERR. -/
structure State.EngineFrame (s t : State) : Prop where
  ctxs : t.ctxs = s.ctxs
  cmdPort : t.cmdPort = s.cmdPort
  resetLine : t.resetLine = s.resetLine
  srcPort : t.srcPort <:+ s.srcPort
  reserved : t.status.extractLsb' 3 29 = s.status.extractLsb' 3 29
  status : t.engine ≠ none → t.status = s.status
  res : t.engine ≠ none ∨ t.code ≠ 0#3 → t.res = s.res ∧ t.resWritten = s.resWritten
  srcerr : t.engine ≠ none ∨ t.code ≠ 3#3 → t.srcerr = s.srcerr ∧ t.srcerrWritten = s.srcerrWritten

theorem State.runEngine_frame (k : EngineKind L) (e : Engine L) (s : State) : s.EngineFrame (s.runEngine k e) := by
  rcases State.runEngine_cases k e s with ⟨e', as, hsuf, h⟩ | ⟨tok, as, hsuf, h⟩ | ⟨as, hsuf, h⟩ | ⟨e', -, -, h⟩
  · rw [h, State.finishEngine]
    refine ⟨rfl, rfl, rfl, hsuf, status_reserved _ _, fun hne => absurd rfl hne, fun hor => ?_, fun _ => ⟨rfl, rfl⟩⟩
    exact hor.elim (absurd rfl) (absurd (State.respond_code _ _))
  · rw [h]
    refine ⟨rfl, rfl, rfl, hsuf, status_reserved _ _, fun hne => absurd rfl hne, fun _ => ⟨rfl, rfl⟩, fun hor => ?_⟩
    exact hor.elim (absurd rfl) (absurd (State.raiseIoerr_code _ _))
  · rw [h]
    exact ⟨rfl, rfl, rfl, hsuf, status_reserved _ _, fun hne => absurd rfl hne, fun _ => ⟨rfl, rfl⟩,
      fun _ => ⟨rfl, rfl⟩⟩
  · rw [h]
    exact ⟨rfl, rfl, rfl, List.nil_suffix, rfl, fun _ => rfl, fun _ => ⟨rfl, rfl⟩, fun _ => ⟨rfl, rfl⟩⟩

/-- Going on with a held transaction and starting one both run an engine. -/
theorem oneShot_frame {s t : State}
    (h : (∃ i : Instr, i.readsSource = true ∧ exec i s = .next t) ∨ ∃ f, s.engine = some f ∧ t = s.resume f) :
    s.EngineFrame t := by
  rcases h with ⟨i, hi, h⟩ | ⟨f, -, rfl⟩
  · obtain ⟨L, k, lanes, -, hexec⟩ := exec_readsSource_kind hi
    cases (hexec s).symm.trans h
    exact State.runEngine_frame k _ s
  · obtain ⟨L, k, e, hk, rfl⟩ := f.exists_kind
    rw [hk.resume]
    exact State.runEngine_frame k e s

/-- Settles O40: each end of a run writes what its code allows, and a held one only the engine and the source port. -/
theorem oneShotFrame : Obligations.OneShotFrame := by
  unfold Obligations.OneShotFrame
  intro s t h
  obtain ⟨hctxs, hcmd, hreset, hsrc, hreserved, hstatus, hres, hsrcerr⟩ := oneShot_frame h
  exact ⟨hctxs, hcmd, hreset, hsrc, hreserved, hstatus, hres, hsrcerr⟩

/-! ## Answers that arrive later -/

/-- Running a waiting engine on some answers ends, and then does the same with more answers behind them; or holds a
waiting engine, which goes on with more answers as if it had had them all at once. -/
theorem State.runEngine_append (k : EngineKind L) {e : Engine L} (he : e.phase = .absorb) {s t : State}
    {as : List Answer} (ht : State.runEngine k e { s with srcPort := as } = t) (bs : List Answer) :
    (t.engine = none ∧ State.runEngine k e { s with srcPort := as ++ bs } = t.leaveAnswers (t.srcPort ++ bs)) ∨
    ∃ e', t.engine = some (k.inFlight e') ∧ t.srcPort = [] ∧
      State.runEngine k e { s with srcPort := as ++ bs } = (t.leaveAnswers bs).runEngine k e' := by
  have happend := readLoop_append k.block e as bs
  subst ht
  cases hout : (readLoop k.block e as).1 with
  | held e' =>
    have hphase : e'.phase = .absorb := (readLoop_held_phase k.block e e' as hout).trans he
    refine .inr ⟨e', ?_, ?_, ?_⟩
    · simp only [State.runEngine, he, hout, State.hold_engine]
    · simp only [State.runEngine, he, hout, State.hold_srcPort, State.leaveAnswers_srcPort]
      exact readLoop_held_rest k.block e e' as hout
    · simp only [State.runEngine, he, hphase, happend, hout, State.leaveAnswers_srcPort]
      cases (readLoop k.block e' bs).1 <;> rfl
  | ended e' => exact .inl (by simp only [State.runEngine, he, happend, hout]; exact ⟨rfl, rfl⟩)
  | failed tok => exact .inl (by simp only [State.runEngine, he, happend, hout]; exact ⟨rfl, rfl⟩)
  | overlong => exact .inl (by simp only [State.runEngine, he, happend, hout]; exact ⟨rfl, rfl⟩)

/-- When the answers arrive does not matter to a step or a command `run` that runs a waiting engine. -/
theorem answers_arrive_later {k : EngineKind L} (hk : k.Resumes) {e : Engine L} (he : e.phase = .absorb)
    {run : State → Host.Outcome State Fault Refusal} {s t : State}
    (hrun : ∀ as, run { s with srcPort := as } = .next (State.runEngine k e { s with srcPort := as }))
    (hr : s.resetLine = false) {as : List Answer} (h : run { s with srcPort := as } = .next t) (bs : List Answer) :
    (t.engine = none → run { s with srcPort := as ++ bs } = .next { t with srcPort := t.srcPort ++ bs }) ∧
    (t.engine ≠ none → t.srcPort = [] ∧ run { s with srcPort := as ++ bs } = step { t with srcPort := bs }) := by
  have ht : State.runEngine k e { s with srcPort := as } = t := Host.Outcome.next.inj ((hrun as).symm.trans h)
  rcases State.runEngine_append k he ht bs with ⟨hend, heq⟩ | ⟨e', hheld, hport, heq⟩
  · exact ⟨fun _ => by rw [hrun, heq]; rfl, fun hne => absurd hend hne⟩
  · have htr : t.resetLine = false := by rw [← ht, (State.runEngine_frame k e _).resetLine, hr]
    have hstep := step_engine hk (s := t.leaveAnswers bs) htr hheld
    exact ⟨fun hnone => (Option.some_ne_none _ (hheld.symm.trans hnone)).elim,
      fun _ => ⟨hport, by rw [hrun, heq, ← hstep]; rfl⟩⟩

/-- Settles O35: a held transaction that goes on and one that starts both run a waiting engine on the answers. -/
theorem heldTransactionResumes : Obligations.HeldTransactionResumes := by
  unfold Obligations.HeldTransactionResumes
  refine ⟨fun s t f as bs hr hf hw h => ?_, fun s t i as bs hr hi h => ?_⟩
  · obtain ⟨L, k, e, hk, rfl⟩ := f.exists_kind
    obtain ⟨hphase, -, -⟩ := (hk.waiting e).mp hw
    exact answers_arrive_later hk hphase (run := step) (fun as => step_engine hk hr hf) hr h bs
  · obtain ⟨L, k, lanes, hk, hexec⟩ := exec_readsSource_kind hi
    exact answers_arrive_later hk rfl (run := exec i) (fun as => hexec _) hr h bs

/-! ## The end of the answers -/

/-- A loop that is held has had no answer that ends it. -/
theorem readLoop_held_answers (block : L → List Byte → L) {e e' : Engine L} {as : List Answer}
    (h : (readLoop block e as).1 = .held e') : ∀ a ∈ as, a.isLast = false := by
  induction as generalizing e with
  | nil => simp
  | cons a as ih =>
    cases a with
    | eos => cases h
    | error tok => cases h
    | bytes bs =>
      simp only [readLoop] at h
      split_ifs at h with hempty hlong
      refine List.forall_mem_cons.mpr ⟨?_, ih h⟩
      rwa [Answer.isLast, List.isEmpty_eq_false_iff]

/-- Settles O36: a loop is only held when it has had no last answer, and its every other end clears the engine. -/
theorem engineEndsWithItsSource : Obligations.EngineEndsWithItsSource := by
  unfold Obligations.EngineEndsWithItsSource
  intro s f a hr hf ha hlast
  obtain ⟨L, k, e, hk, rfl⟩ := f.exists_kind
  refine ⟨_, step_engine hk hr hf, ?_⟩
  rcases State.runEngine_cases k e s with ⟨_, _, -, h⟩ | ⟨_, _, -, h⟩ | ⟨_, -, h⟩ | ⟨e', hheld, -, -⟩
  · rw [h]; rfl
  · rw [h]; rfl
  · rw [h]; rfl
  · exact (Bool.false_ne_true ((readLoop_held_answers k.block hheld a ha).symm.trans hlast)).elim

end Sys2Proof.Machine
end

section
/-! PROOFS. The commands X86_128 and X64_128: start, read loop answer by answer and end (R170, R200), and the digest
they leave (R171, R201). -/

namespace Sys2Proof.Machine

variable {L : Type}

/-! ## Taking an answer -/

@[simp] theorem Engine.take_phase (block : L → List Byte → L) (e : Engine L) (bs : List Byte) :
    (e.take block bs).phase = e.phase := by
  unfold Engine.take
  simp only []
  split_ifs <;> rfl

theorem Engine.take_partial (block : L → List Byte → L) {e : Engine L} {bs : List Byte} (h : bs.length < e.request) :
    e.take block bs = { e with buf := e.buf ++ bs, nb := e.nb + bs.length } := by
  have hlen : (e.buf ++ bs).length ≠ Config.blockBytes := by
    rw [List.length_append]
    exact Nat.ne_of_lt (Nat.add_lt_of_lt_sub' h)
  rw [Engine.take, if_neg hlen]

theorem Engine.take_full (block : L → List Byte → L) {e : Engine L} {bs : List Byte} (hb : e.buf.length < 16)
    (h : bs.length = e.request) :
    e.take block bs = { e with lanes := block e.lanes (e.buf ++ bs), buf := [], nb := e.nb + bs.length } := by
  have hlen : (e.buf ++ bs).length = Config.blockBytes := by
    rw [List.length_append, h]
    exact Nat.add_sub_of_le hb.le
  rw [Engine.take, if_pos hlen]

/-! ## One answer -/

/-- Putting a waiting engine into the state and stepping is running it. -/
theorem step_with_engine {k : EngineKind L} (hk : k.Resumes) {e : Engine L} (hphase : e.phase = .absorb) {s : State}
    (hr : s.resetLine = false) : step { s with engine := some (k.inFlight e) } = .next (s.runEngine k e) := by
  rw [step_engine hk (s := { s with engine := some (k.inFlight e) }) hr rfl, State.runEngine_with_engine k hphase]

section
variable {k : EngineKind L} (hk : k.Resumes) {s : State} {e : Engine L} (hr : s.resetLine = false)
  (he : s.engine = some (k.inFlight e)) (hphase : e.phase = .absorb) {rest : List Answer}
include hk hr he hphase

/-- A held engine that is answered Error ends with IOERR. -/
theorem step_engine_error {tok : Word32} (hs : s.srcPort = .error tok :: rest) :
    step s = .next ((s.leaveAnswers rest).endEngine.raiseIoerr tok) := by
  rw [step_engine hk hr he, State.runEngine_error k hphase hs]

/-- A held engine that is answered more than it requested ends with PROTOCOL. -/
theorem step_engine_overlong {bs : List Byte} (hs : s.srcPort = .bytes bs :: rest) (hlong : e.request < bs.length) :
    step s = .next ((s.leaveAnswers rest).endEngine.raise .protocol) := by
  rw [step_engine hk hr he, State.runEngine_overlong k hphase hs hlong]

/-- A held engine that is answered End finishes. -/
theorem step_engine_end {a : Answer} (hs : s.srcPort = a :: rest) (ha : a.isEnd = true) :
    step s = .next ((s.leaveAnswers rest).endEngine.respond (k.digest { e with phase := .final })) := by
  rw [step_engine hk hr he, State.runEngine_end k hphase ha hs, State.finishEngine]

/-- A held engine that takes an answer goes on as the engine after it. -/
theorem step_engine_take {bs : List Byte} (hs : s.srcPort = .bytes bs :: rest) (hne : 1 ≤ bs.length)
    (hfit : bs.length ≤ e.request) :
    step s = step { s with srcPort := rest, engine := some (k.inFlight (e.take k.block bs)) } := by
  have htake : (e.take k.block bs).phase = .absorb := by rw [Engine.take_phase, hphase]
  rw [step_engine hk hr he, State.runEngine_take k hphase hs hne hfit]
  exact (step_with_engine hk (s := { s with srcPort := rest }) htake hr).symm

end

/-- A command that reads the source goes on as the engine at its start. -/
theorem exec_starts_engine {k : EngineKind L} (hk : k.Resumes) {s : State} {i : Instr} {lanes : L}
    (hexec : ∀ s, exec i s = .next (s.runEngine k (.start lanes))) (hr : s.resetLine = false) :
    exec i s = step { s with engine := some (k.inFlight (.start lanes)) } :=
  (hexec s).trans (step_with_engine hk rfl hr).symm

/-! ## The digests -/

theorem x86Kind_digest_ofInput (S : List Byte) (seed : Word32) :
    x86Kind.digest { Engine.ofInput x86Kind.block (x86Start seed) S with phase := .final } = hashX86 S seed := rfl

theorem x64Kind_digest_ofInput (S : List Byte) (seed : Word32) :
    x64Kind.digest { Engine.ofInput x64Kind.block (x64Start seed) S with phase := .final } = hashX64 S seed := rfl

/-- Settles O30: answers that fit bring the engine to the blocks and the tail of their bytes, and End to the digest. -/
theorem x86DigestOfInput : Obligations.X86DigestOfInput := by
  unfold Obligations.X86DigestOfInput
  intro s opd bss a rest hfit ha hs
  rw [exec_x86Hash, State.runEngine_start_end x86Kind _ hfit ha hs, x86Kind_digest_ofInput]
  rfl

/-- Settles O31, as for the other engine. -/
theorem x64DigestOfInput : Obligations.X64DigestOfInput := by
  unfold Obligations.X64DigestOfInput
  intro s opd bss a rest hfit ha hs
  rw [exec_x64Hash, State.runEngine_start_end x64Kind _ hfit ha hs, x64Kind_digest_ofInput]
  rfl

/-- A tail of 1 to 8 bytes reaches the first lane only (R193). -/
theorem x64Tail_short (l : X64Lanes) {tail : List Byte} (h1 : 1 ≤ tail.length) (h8 : tail.length ≤ 8) :
    x64Tail l tail = ⟨l.h1 ^^^ kmix64a (word64At tail 0), l.h2⟩ := by
  rw [x64Tail, if_pos (Nat.succ_le_iff.mp h1), if_neg (Nat.not_lt.mpr h8)]

/-! ## The commands -/

/-- Settles O28: the row of X86_128 decides between its start and ILLEGAL, and each answer of the source is one case of
the read loop. -/
theorem x86Command : Obligations.X86Command := by
  unfold Obligations.X86Command
  have hrow : (⟨.x86Hash, "X86_128", 0x20000000#32, 0xFFFFFFFF#32⟩ : MapRow) ∈ opcodeMap := by decide
  refine ⟨fun s t hs hopc => ⟨fun ⟨hmatch, hpay⟩ => ?_, fun hbad => ?_⟩, fun s l buf nb rest hr he hb => ?_,
    by decide +kernel, by decide +kernel⟩
  · have ⟨hr, _, _⟩ := hs
    rw [step_of_row hs hrow hmatch ((condition_iff_of_format_n rfl _ t).mpr hpay)]
    exact exec_starts_engine x86Kind_resumes (exec_x86Hash t.opd) hr
  · exact step_illegal_of_format_n hs (op := .x86Hash) hopc rfl hbad
  · refine ⟨x86Kind_resumes.request _ s he, fun tok hs => step_engine_error x86Kind_resumes hr he rfl hs,
      fun bs hs hlong => step_engine_overlong x86Kind_resumes hr he rfl hs hlong, fun bs hs hne hlt => ?_,
      fun bs hs hfull => ?_, fun a hs ha => ?_, fun hs => step_engine_unanswered x86Kind_resumes hr he rfl hs⟩
    · rw [step_engine_take x86Kind_resumes hr he rfl hs hne hlt.le, Engine.take_partial _ hlt]
      rfl
    · rw [step_engine_take x86Kind_resumes hr he rfl hs (by omega) hfull.le, Engine.take_full _ hb hfull]
      rfl
    · rw [step_engine_end x86Kind_resumes hr he rfl hs (by rcases ha with rfl | rfl <;> rfl), State.respond_eq]
      rfl

/-- Settles O29: the cases are those of X86_128, and a tail that reaches both words mixes both. -/
theorem x64Command : Obligations.X64Command := by
  unfold Obligations.X64Command
  have hrow : (⟨.x64Hash, "X64_128", 0x21000000#32, 0xFFFFFFFF#32⟩ : MapRow) ∈ opcodeMap := by decide
  refine ⟨fun s t hs hopc => ⟨fun ⟨hmatch, hpay⟩ => ?_, fun hbad => ?_⟩, fun s l buf nb rest hr he hb => ?_,
    by decide +kernel, fun l tail => ⟨fun h1 h8 => x64Tail_short l h1 h8, fun _ _ => x64Tail_eq l tail⟩,
    by decide +kernel⟩
  · have ⟨hr, _, _⟩ := hs
    rw [step_of_row hs hrow hmatch ((condition_iff_of_format_n rfl _ t).mpr hpay)]
    exact exec_starts_engine x64Kind_resumes (exec_x64Hash t.opd) hr
  · exact step_illegal_of_format_n hs (op := .x64Hash) hopc rfl hbad
  · refine ⟨x64Kind_resumes.request _ s he, fun tok hs => step_engine_error x64Kind_resumes hr he rfl hs,
      fun bs hs hlong => step_engine_overlong x64Kind_resumes hr he rfl hs hlong, fun bs hs hne hlt => ?_,
      fun bs hs hfull => ?_, fun a hs ha => ?_, fun hs => step_engine_unanswered x64Kind_resumes hr he rfl hs⟩
    · rw [step_engine_take x64Kind_resumes hr he rfl hs hne hlt.le, Engine.take_partial _ hlt]
      rfl
    · rw [step_engine_take x64Kind_resumes hr he rfl hs (by omega) hfull.le, Engine.take_full _ hb hfull]
      rfl
    · rw [step_engine_end x64Kind_resumes hr he rfl hs (by rcases ha with rfl | rfl <;> rfl), State.respond_eq]
      rfl

end Sys2Proof.Machine
end

section
/-! PROOFS. How commands end: their outcome codes (R220), what a failure leaves as it was (R221), the bits of OPD they
read (R22), and that written registers stay readable (R250). -/

namespace Sys2Proof.Machine

/-! ## Outcome codes -/

/-- A one-shot engine that has ended, ended OK with RES written, IOERR with SRCERR written, or PROTOCOL. -/
theorem State.runEngine_ended {L : Type} (k : EngineKind L) {e : Engine L} {s t : State} (ht : s.runEngine k e = t)
    (hend : t.engine = none) :
    (t.code = 0#3 ∧ t.resWritten = true) ∨ (t.code = 3#3 ∧ t.srcerrWritten = true) ∨ t.code = 4#3 := by
  subst ht
  rcases State.runEngine_cases k e s with ⟨_, _, -, h⟩ | ⟨_, _, -, h⟩ | ⟨_, -, h⟩ | ⟨_, -, -, h⟩
  · rw [h]
    exact .inl ⟨State.respond_code _ _, rfl⟩
  · rw [h]
    exact .inr (.inl ⟨State.raiseIoerr_code _ _, rfl⟩)
  · rw [h]
    exact .inr (.inr (State.raise_code _ _))
  · rw [h] at hend
    cases hend

/-- The same for the command that starts it. -/
theorem exec_readsSource_ended {i : Instr} {s t : State} (hi : i.readsSource = true) (h : exec i s = .next t)
    (hend : t.engine = none) :
    (t.code = 0#3 ∧ t.resWritten = true) ∨ (t.code = 3#3 ∧ t.srcerrWritten = true) ∨ t.code = 4#3 := by
  obtain ⟨L, k, lanes, -, hexec⟩ := exec_readsSource_kind hi
  exact State.runEngine_ended k (Host.Outcome.next.inj ((hexec s).symm.trans h)) hend

theorem exec_readsSource_code {i : Instr} {s t : State} (hi : i.readsSource = true) (h : exec i s = .next t)
    (hend : t.engine = none) : t.code = 0#3 ∨ t.code = 3#3 ∨ t.code = 4#3 := by
  rcases exec_readsSource_ended hi h hend with ⟨hcode, -⟩ | ⟨hcode, -⟩ | hcode
  · exact .inl hcode
  · exact .inr (.inl hcode)
  · exact .inr (.inr hcode)

/-- Settles O44: a well-formed command has a rotate amount and a context, so what is left is its VALID or its source. -/
theorem outcomeCodesOfCommands : Obligations.OutcomeCodesOfCommands := by
  unfold Obligations.OutcomeCodesOfCommands
  intro i s t hwf h
  cases i with
  | rotl32 r o =>
    cases (exec_rotl32_nonzero (bne_iff_ne.mp hwf) o s).symm.trans h
    exact State.respond_code _ _
  | rotl64 r o =>
    cases (exec_rotl64_nonzero (bne_iff_ne.mp hwf) o s).symm.trans h
    exact State.respond_code _ _
  | fmix32 o =>
    cases (exec_fmix32 o s).symm.trans h
    exact State.respond_code _ _
  | fmix64 o =>
    cases (exec_fmix64 o s).symm.trans h
    exact State.respond_code _ _
  | s32New c o =>
    obtain ⟨x, hx⟩ := State.ctx?_of_lt (of_decide_eq_true hwf)
    cases (exec_s32New_present o hx).symm.trans h
    exact State.setCode_code _ _
  | s32Write c o p =>
    obtain ⟨hc, hp⟩ := Bool.and_eq_true_iff.mp hwf
    obtain ⟨x, hx⟩ := State.ctx?_of_lt (of_decide_eq_true hc)
    cases hv : x.valid with
    | false =>
      cases (exec_s32Write_invalid o (of_decide_eq_true hp) hx hv).symm.trans h
      exact .inr (State.raise_code _ _)
    | true =>
      cases (exec_s32Write_valid o (of_decide_eq_true hp) hx hv).symm.trans h
      exact .inl (State.setCode_code _ _)
  | s32Final c o =>
    obtain ⟨x, hx⟩ := State.ctx?_of_lt (of_decide_eq_true hwf)
    cases hv : x.valid with
    | false =>
      cases (exec_s32Final_invalid o hx hv).symm.trans h
      exact .inr (State.raise_code _ _)
    | true =>
      cases (exec_s32Final_valid o hx hv).symm.trans h
      exact .inl (State.respond_code _ _)
  | x86Hash o => exact exec_readsSource_code rfl h
  | x64Hash o => exact exec_readsSource_code rfl h

/-! ## What a failure leaves as it was -/

/-- What a transaction from `s` to `t` that fails, or that is held, leaves as it was (R221, R229). -/
structure State.FailureFrame (s t : State) : Prop where
  failed : t.engine = none → t.code ≠ 0#3 →
    t.res = s.res ∧ t.resWritten = s.resWritten ∧ t.ctxs = s.ctxs ∧
    (t.code ≠ 3#3 → t.srcerr = s.srcerr ∧ t.srcerrWritten = s.srcerrWritten)
  held : t.engine ≠ none →
    t.res = s.res ∧ t.resWritten = s.resWritten ∧ t.ctxs = s.ctxs ∧ t.srcerr = s.srcerr ∧
    t.srcerrWritten = s.srcerrWritten ∧ t.status = s.status

theorem State.EngineFrame.failure {s t : State} (h : s.EngineFrame t) : s.FailureFrame t where
  failed _ hcode := by
    obtain ⟨hres, hw⟩ := h.res (.inr hcode)
    exact ⟨hres, hw, h.ctxs, fun h3 => h.srcerr (.inr h3)⟩
  held hne := by
    obtain ⟨hres, hw⟩ := h.res (.inl hne)
    obtain ⟨hsrc, hsw⟩ := h.srcerr (.inl hne)
    exact ⟨hres, hw, h.ctxs, hsrc, hsw, h.status hne⟩

theorem State.raise_failure {s : State} (he : s.engine = none) (k : Code) : s.FailureFrame (s.raise k) where
  failed _ _ := ⟨rfl, rfl, rfl, fun _ => ⟨rfl, rfl⟩⟩
  held hne := absurd he hne

/-- A transaction that has ended OK has neither failed nor is held. -/
theorem State.FailureFrame.of_ok {s t : State} (he : t.engine = none) (hcode : t.code = 0#3) : s.FailureFrame t where
  failed _ hne := absurd hcode hne
  held hne := absurd he hne

theorem exec_failure {i : Instr} {s t : State} (he : s.engine = none) (h : exec i s = .next t) : s.FailureFrame t := by
  cases hi : i.readsSource with
  | true => exact (oneShot_frame (.inl ⟨i, hi, h⟩)).failure
  | false =>
    rcases exec_plain_cases hi s with ⟨k, -, hk⟩ | ⟨v, hv, -⟩ | ⟨c, x, -, -, -, hx, -⟩
    · cases hk.symm.trans h
      exact State.raise_failure he k
    · cases hv.symm.trans h
      exact .of_ok he (State.respond_code v s)
    · cases hx.symm.trans h
      exact .of_ok he (State.setCode_code _ _)

/-- Settles O43: the transaction goes on or is accepted, and either way it is a command's frame, or ILLEGAL. -/
theorem failureLeavesStateAsBefore : Obligations.FailureLeavesStateAsBefore := by
  unfold Obligations.FailureLeavesStateAsBefore
  intro s t hr h hbusy
  have hframe : s.FailureFrame t := by
    rcases step_cases h with
      ⟨hr', -⟩ | ⟨-, f, hf, rfl⟩ | ⟨-, he, hport, -⟩ | ⟨-, he, u, i, -, -, hexec⟩ | ⟨-, he, _, _, -, -, rfl⟩
    · cases hr.symm.trans hr'
    · exact (oneShot_frame (.inr ⟨f, hf, rfl⟩)).failure
    · exact hbusy.elim (absurd he) (absurd hport)
    · obtain ⟨hfailed, hheld⟩ := exec_failure (s := s.popCommand) he hexec
      exact ⟨hfailed, hheld⟩
    · obtain ⟨hfailed, hheld⟩ := State.raise_failure (s := s.popCommand) he .illegal
      exact ⟨hfailed, hheld⟩
  exact ⟨hframe.failed, hframe.held⟩

/-! ## The bits of OPD -/

theorem setWidth_injective {w n : Nat} (h : w ≤ n) : Function.Injective (BitVec.setWidth n : BitVec w → BitVec n) :=
  Function.LeftInverse.injective (extract_setWidth_low h)

/-- Bit `i` of a word stands at `(i + r) mod w` after a rotate. -/
theorem getLsbD_of_rotateLeft {w : Nat} (x : BitVec w) {r i : Nat} (hr1 : 1 ≤ r) (hr : r < w) (hi : i < w) :
    x.getLsbD i = (x.rotateLeft r).getLsbD ((i + r) % w) := by
  rw [getLsbD_rotateLeft_eq x hr1 hr (Nat.mod_lt _ (by omega))]
  congr 1
  rcases Nat.lt_or_ge (i + r) w with h | h
  · rw [Nat.mod_eq_of_lt h, show i + r + w - r = i + w by omega, Nat.add_mod_right, Nat.mod_eq_of_lt hi]
  · rw [Nat.mod_eq_sub_mod h, Nat.mod_eq_of_lt (a := i + r - w) (by omega), show i + r - w + w - r = i by omega,
      Nat.mod_eq_of_lt hi]

/-- So a rotate loses no bit. -/
theorem rotateLeft_injective {w r : Nat} (hr1 : 1 ≤ r) (hr : r < w) :
    Function.Injective fun x : BitVec w => x.rotateLeft r := by
  intro x y hxy
  have hrot : x.rotateLeft r = y.rotateLeft r := hxy
  refine BitVec.eq_of_getLsbD_eq fun i hi => ?_
  rw [getLsbD_of_rotateLeft x hr1 hr hi, hrot, ← getLsbD_of_rotateLeft y hr1 hr hi]

theorem respond_injective {s : State} {v w : Word128}
    (h : (.next (s.respond v) : Host.Outcome State Fault Refusal) = .next (s.respond w)) : v = w :=
  congrArg State.res (Host.Outcome.next.inj h)

/-- Settles O45: a command sees the operand through X32 or SEED, or not at all; the 64-bit operations lose no bit. -/
theorem operandBitsIgnored : Obligations.OperandBitsIgnored := by
  unfold Obligations.OperandBitsIgnored
  refine ⟨fun s o o' hlow => ?_, fun s o o' c payload => ⟨rfl, rfl⟩, fun s t o o' => ⟨fun h h' => ?_,
    fun r hr h h' => ?_⟩⟩
  · have hx : opdX32 o = opdX32 o' := hlow
    have hseed : opdSeed o = opdSeed o' := hlow
    refine ⟨fun r => ?_, ?_, fun c => ?_, ?_, ?_⟩
    · simp only [exec, execRotl32, hx]
    · rw [exec_fmix32, exec_fmix32, hx]
    · simp only [exec, execS32New, hseed]
    · rw [exec_x86Hash, exec_x86Hash, hseed]
    · rw [exec_x64Hash, exec_x64Hash, hseed]
  · have heq := respond_injective (h.trans h'.symm)
    exact fmix64_bijective.injective (setWidth_injective (by decide) heq)
  · rw [exec_rotl64_nonzero hr] at h h'
    have heq := setWidth_injective (by decide) (respond_injective (h.trans h'.symm))
    rw [rotl64_eq_rotateLeft _ r.isLt, rotl64_eq_rotateLeft _ r.isLt] at heq
    have hr1 : 1 ≤ r.toNat := Nat.pos_of_ne_zero fun h0 => hr (BitVec.eq_of_toNat_eq h0)
    exact rotateLeft_injective hr1 r.isLt heq

/-! ## Written registers -/

theorem State.readRes_eq_ok_iff (s : State) : s.readRes = .ok s.res ↔ s.resWritten = true := by
  cases h : s.resWritten <;> simp [State.readRes, h]

theorem State.readSrcerr_eq_ok_iff (s : State) : s.readSrcerr = .ok s.srcerr ↔ s.srcerrWritten = true := by
  cases h : s.srcerrWritten <;> simp [State.readSrcerr, h]

/-- What was written in `s` is written in `t`. -/
structure State.KeepsWritten (s t : State) : Prop where
  res : s.resWritten = true → t.resWritten = true
  srcerr : s.srcerrWritten = true → t.srcerrWritten = true

theorem State.runEngine_keepsWritten {L : Type} (k : EngineKind L) (e : Engine L) (s : State) :
    s.KeepsWritten (s.runEngine k e) := by
  rcases State.runEngine_cases k e s with ⟨_, _, -, h⟩ | ⟨_, _, -, h⟩ | ⟨_, -, h⟩ | ⟨_, -, -, h⟩
  · rw [h]; exact ⟨fun _ => rfl, id⟩
  · rw [h]; exact ⟨id, fun _ => rfl⟩
  · rw [h]; exact ⟨id, id⟩
  · rw [h]; exact ⟨id, id⟩

theorem exec_keepsWritten {i : Instr} {s t : State} (h : exec i s = .next t) : s.KeepsWritten t := by
  cases hi : i.readsSource with
  | true =>
    obtain ⟨L, k, lanes, -, hexec⟩ := exec_readsSource_kind hi
    cases (hexec s).symm.trans h
    exact State.runEngine_keepsWritten k _ s
  | false =>
    rcases exec_plain_cases hi s with ⟨k, -, hk⟩ | ⟨v, hv, -⟩ | ⟨c, x, -, -, -, hx, -⟩
    · cases hk.symm.trans h
      exact ⟨id, id⟩
    · cases hv.symm.trans h
      exact ⟨fun _ => rfl, id⟩
    · cases hx.symm.trans h
      exact ⟨id, id⟩

theorem step_keepsWritten {s t : State} (hr : s.resetLine = false) (h : step s = .next t) : s.KeepsWritten t := by
  rcases step_cases h with
    ⟨hr', -⟩ | ⟨-, f, -, rfl⟩ | ⟨-, -, -, rfl⟩ | ⟨-, -, u, i, -, -, hexec⟩ | ⟨-, -, _, _, -, -, rfl⟩
  · cases hr.symm.trans hr'
  · obtain ⟨L, k, e, hk, rfl⟩ := f.exists_kind
    rw [hk.resume]
    exact State.runEngine_keepsWritten k e s
  · exact ⟨id, id⟩
  · obtain ⟨hres, hsrcerr⟩ := exec_keepsWritten hexec
    exact ⟨hres, hsrcerr⟩
  · exact ⟨id, id⟩

/-- A command that ends OK has written RES, unless it is one that writes a context. -/
theorem exec_ok_resWritten {i : Instr} {s t : State} (h : exec i s = .next t) (hcode : t.code = 0#3)
    (hend : t.engine = none) (hnew : ∀ c o, i ≠ .s32New c o) (hwrite : ∀ c o p, i ≠ .s32Write c o p) :
    t.resWritten = true := by
  cases hi : i.readsSource with
  | true =>
    rcases exec_readsSource_ended hi h hend with ⟨-, hw⟩ | ⟨hcode', -⟩ | hcode'
    · exact hw
    · exact absurd (hcode.symm.trans hcode') (by decide)
    · exact absurd (hcode.symm.trans hcode') (by decide)
  | false =>
    rcases exec_plain_cases hi s with ⟨k, hk, hraise⟩ | ⟨v, hv, -⟩ | ⟨c, x, -, -, -, -, ⟨o, hio⟩ | ⟨o, p, hio⟩⟩
    · cases hraise.symm.trans h
      exact absurd ((State.raise_code k s).symm.trans hcode) (Code.bits_ne_zero hk)
    · cases hv.symm.trans h
      rfl
    · exact absurd hio (hnew c o)
    · exact absurd hio (hwrite c o p)

/-- Settles O53: only a reset clears what says that a register is written, and the code tells which one a command has
written. -/
theorem writtenRegistersStayReadable : Obligations.WrittenRegistersStayReadable := by
  unfold Obligations.WrittenRegistersStayReadable
  simp only [State.readRes_eq_ok_iff, State.readSrcerr_eq_ok_iff]
  refine ⟨fun s t hr h => ?_, fun i s t h hcode hend hnew hwrite => exec_ok_resWritten h hcode hend hnew hwrite,
    fun i s t h hi hend hcode => ?_⟩
  · obtain ⟨hres, hsrcerr⟩ := step_keepsWritten hr h
    exact ⟨hres, hsrcerr⟩
  · rcases exec_readsSource_ended hi h hend with ⟨hcode', -⟩ | ⟨-, hw⟩ | hcode'
    · exact absurd (hcode.symm.trans hcode') (by decide)
    · exact hw
    · exact absurd (hcode.symm.trans hcode') (by decide)

end Sys2Proof.Machine
end

section
/-! PROOFS. The invariant of the block's states: it holds after reset and every step keeps it (R7, R26, R30, R31). -/

namespace Sys2Proof.Machine

/-! ## Reset -/

theorem State.resetOf_nCtx (n : Nat) : (State.resetOf n).nCtx = n :=
  List.length_replicate

theorem State.resetOf_invalid (n : Nat) : ∀ c ∈ (State.resetOf n).ctxs, c.valid = false := by
  intro c hc
  rw [List.eq_of_mem_replicate hc]
  rfl

theorem State.resetOf_inv {n : Nat} (h1 : 1 ≤ n) (h16 : n ≤ 16) : (State.resetOf n).Inv where
  contexts := (State.resetOf_nCtx n).symm ▸ ⟨h1, h16⟩
  reserved := show (0#32).extractLsb' 3 29 = 0#29 by decide
  code := Nat.zero_le 4
  tidy := replicate_reset_tidy n
  held _ h := by cases h

/-- Settles O46: every field of the reset state is written out. -/
theorem resetStateOfTheSpec : Obligations.ResetStateOfTheSpec := by
  unfold Obligations.ResetStateOfTheSpec
  exact fun n _ _ => ⟨rfl, rfl, rfl, rfl, State.resetOf_nCtx n, State.resetOf_invalid n, rfl, rfl⟩

/-- Settles O47: STATUS is zero, no context is valid and no engine runs. -/
theorem invariantAtReset : Obligations.InvariantAtReset := by
  unfold Obligations.InvariantAtReset
  exact ⟨State.resetOf_inv (by decide) (by decide), fun n => State.resetOf_inv⟩

/-! ## What a transaction does to STATUS, to the number of contexts and to the engine -/

/-- What the invariant needs of a step without a reset: N_CTX stays; STATUS stays or gets an outcome code in its bits
2:0; and an engine that is held waits. -/
structure State.Progress (s t : State) : Prop where
  nCtx : t.nCtx = s.nCtx
  status : t.status = s.status ∨ ∃ k : Code, t.status = s.status.extractLsb' 3 29 ++ k.bits
  held : ∀ f, t.engine = some f → f.waiting

theorem State.runEngine_progress {L : Type} {k : EngineKind L} (hk : k.Resumes) {e : Engine L} (he : e.waiting)
    (s : State) : s.Progress (s.runEngine k e) := by
  have hctxs := congrArg List.length (State.runEngine_ctxs k e s)
  rcases State.runEngine_cases k e s with ⟨_, _, -, h⟩ | ⟨_, _, -, h⟩ | ⟨_, -, h⟩ | ⟨e', hheld, -, h⟩
  · exact ⟨hctxs, .inr ⟨.ok, by rw [h]; rfl⟩, fun f hf => by rw [h] at hf; cases hf⟩
  · exact ⟨hctxs, .inr ⟨.ioerr, by rw [h]; rfl⟩, fun f hf => by rw [h] at hf; cases hf⟩
  · exact ⟨hctxs, .inr ⟨.protocol, by rw [h]; rfl⟩, fun f hf => by rw [h] at hf; cases hf⟩
  · refine ⟨hctxs, .inl (by rw [h]; rfl), fun f hf => ?_⟩
    rw [h] at hf
    cases hf
    exact (hk.waiting e').mpr (readLoop_held_waiting k.block he e' s.srcPort hheld)

theorem exec_progress {i : Instr} {s t : State} (he : s.engine = none) (h : exec i s = .next t) : s.Progress t := by
  have hidle : ∀ f, s.engine = some f → f.waiting := fun f hf => by cases he.symm.trans hf
  cases hi : i.readsSource with
  | true =>
    obtain ⟨L, k, lanes, hk, hexec⟩ := exec_readsSource_kind hi
    cases (hexec s).symm.trans h
    exact State.runEngine_progress hk (Engine.start_waiting lanes) s
  | false =>
    rcases exec_plain_cases hi s with ⟨k, -, hk⟩ | ⟨v, hv, -⟩ | ⟨c, x, -, -, -, hx, -⟩
    · cases hk.symm.trans h
      exact ⟨rfl, .inr ⟨k, rfl⟩, hidle⟩
    · cases hv.symm.trans h
      exact ⟨rfl, .inr ⟨.ok, rfl⟩, hidle⟩
    · cases hx.symm.trans h
      exact ⟨s.setCtx_nCtx c x, .inr ⟨.ok, rfl⟩, hidle⟩

theorem step_progress {s t : State} (hs : ∀ f, s.engine = some f → f.waiting) (hr : s.resetLine = false)
    (h : step s = .next t) : s.Progress t := by
  rcases step_cases h with
    ⟨hr', -⟩ | ⟨-, f, hf, rfl⟩ | ⟨-, -, -, rfl⟩ | ⟨-, he, u, i, -, -, hexec⟩ | ⟨-, -, _, _, -, -, rfl⟩
  · cases hr.symm.trans hr'
  · obtain ⟨L, k, e, hk, rfl⟩ := f.exists_kind
    rw [hk.resume]
    exact State.runEngine_progress hk ((hk.waiting e).mp (hs _ hf)) s
  · exact ⟨rfl, .inl rfl, hs⟩
  · obtain ⟨hn, hstatus, hheld⟩ := exec_progress (s := s.popCommand) he hexec
    exact ⟨hn, hstatus, hheld⟩
  · exact ⟨rfl, .inr ⟨.illegal, rfl⟩, hs⟩

/-! ## The invariant -/

/-- A reset keeps the number of contexts, and else gives a reset state. -/
theorem State.Inv.takeReset {s : State} (h : s.Inv) : s.takeReset.Inv := by
  obtain ⟨⟨h1, h16⟩, -, -, -, -⟩ := h
  obtain ⟨hcontexts, hreserved, hcode, htidy, hheld⟩ := State.resetOf_inv h1 h16
  exact ⟨hcontexts, hreserved, hcode, htidy, hheld⟩

theorem State.Inv.of_progress {s t : State} (h : s.Inv) (hp : s.Progress t) (htidy : ∀ c ∈ t.ctxs, c.tidy) :
    t.Inv := by
  refine ⟨hp.nCtx.symm ▸ h.contexts, ?_, ?_, htidy, hp.held⟩
  · rcases hp.status with hstatus | ⟨k, hstatus⟩
    · rw [hstatus, h.reserved]
    · rw [hstatus, status_reserved, h.reserved]
  · rcases hp.status with hstatus | ⟨k, hstatus⟩
    · rw [State.code, hstatus]
      exact h.code
    · rw [State.code, hstatus, status_code]
      exact k.bits_le_four

/-- Settles O48: a reset gives a reset state; any other step writes at most an outcome code, keeps the contexts tidy and
holds only waiting engines. -/
theorem invariantKeptByStep : Obligations.InvariantKeptByStep := by
  unfold Obligations.InvariantKeptByStep
  intro s t hs h
  cases hr : s.resetLine with
  | true =>
    cases (step_reset hr).symm.trans h
    exact hs.takeReset
  | false => exact hs.of_progress (step_progress hs.held hr h) (step_keeps_tidy h hs.tidy)

end Sys2Proof.Machine
end

section
/-! PROOFS. The values reset leaves unspecified cannot be observed: states alike but for them run alike (R250, U7 to
U10). -/

namespace Sys2Proof.Machine

/-! ## Contexts that are alike -/

theorem Context.Alike.refl (c : Context) : c.Alike c :=
  ⟨rfl, fun _ => ⟨rfl, rfl, rfl, rfl, fun _ _ => rfl⟩⟩

theorem Context.Alike.of_invalid {c d : Context} (hc : c.valid = false) (hd : d.valid = false) : c.Alike d :=
  ⟨hc.trans hd.symm, fun hv => by cases hc.symm.trans hv⟩

/-- Valid contexts that are alike agree on SEED and on all that a digest reads. -/
theorem Context.Alike.sameUsed {c d : Context} (h : c.Alike d) (hv : c.valid = true) :
    c.seed = d.seed ∧ c.SameUsed d := by
  obtain ⟨hseed, hacc, htotal, htlen, htail⟩ := h.2 hv
  exact ⟨hseed, hacc.symm, htotal.symm, htlen.symm, fun j hj => (htail j hj).symm⟩

theorem Context.SameUsed.alike {c d : Context} (h : c.SameUsed d) (hvalid : c.valid = d.valid)
    (hseed : c.seed = d.seed) : c.Alike d :=
  ⟨hvalid, fun _ => ⟨hseed, h.acc.symm, h.total.symm, h.tlen.symm, fun j hj => (h.tail j hj).symm⟩⟩

/-- Valid contexts that are alike stay so when they are written. -/
theorem Context.Alike.write {c d : Context} (h : c.Alike d) (hv : c.valid = true) (p : List Byte) :
    (c.write p).Alike (d.write p) := by
  obtain ⟨hseed, hsame⟩ := h.sameUsed hv
  exact (hsame.write p).alike (by rw [Context.write_valid, Context.write_valid, h.1])
    (by rw [Context.write_seed, Context.write_seed, hseed])

theorem Context.Alike.digest {c d : Context} (h : c.Alike d) (hv : c.valid = true) : c.digest = d.digest :=
  (h.sameUsed hv).2.digest.symm

/-! ## Context files that are alike -/

theorem forall₂_set {α : Type} {R : α → α → Prop} {as bs : List α} (h : List.Forall₂ R as bs) {a b : α} (hab : R a b)
    (n : Nat) : List.Forall₂ R (as.set n a) (bs.set n b) := by
  induction h generalizing n with
  | nil => exact .nil
  | cons hhead htail ih =>
    cases n with
    | zero => exact .cons hab htail
    | succ n => exact .cons hhead (ih n)

theorem forall₂_getElem? {α : Type} {R : α → α → Prop} {as bs : List α} (h : List.Forall₂ R as bs) (n : Nat) :
    Option.Rel R as[n]? bs[n]? := by
  induction h generalizing n with
  | nil => exact .none
  | cons hhead htail ih =>
    cases n with
    | zero => exact .some hhead
    | succ n => exact ih n

theorem alike_of_invalid {cs ds : List Context} (hlen : cs.length = ds.length) (hcs : ∀ c ∈ cs, c.valid = false)
    (hds : ∀ d ∈ ds, d.valid = false) : List.Forall₂ Context.Alike cs ds :=
  List.forall₂_iff_get.mpr ⟨hlen, fun _ _ _ => .of_invalid (hcs _ (List.get_mem ..)) (hds _ (List.get_mem ..))⟩

/-! ## Operations on states that are alike -/

section
variable {s t : State} (h : s.Alike t)
include h

theorem State.Alike.nCtx : s.nCtx = t.nCtx := h.ctxs.length_eq

theorem State.Alike.ctx? (c : BitVec 4) :
    (s.ctx? c = none ∧ t.ctx? c = none) ∨ ∃ x y, s.ctx? c = some x ∧ t.ctx? c = some y ∧ x.Alike y := by
  have hrel : Option.Rel Context.Alike (s.ctx? c) (t.ctx? c) := forall₂_getElem? h.ctxs c.toNat
  cases hs : s.ctx? c <;> cases ht : t.ctx? c <;> rw [hs, ht] at hrel
  · exact .inl ⟨rfl, rfl⟩
  · cases hrel
  · cases hrel
  · cases hrel with
    | some hxy => exact .inr ⟨_, _, rfl, rfl, hxy⟩

theorem State.Alike.setCode (k : Code) : (s.setCode k).Alike (t.setCode k) :=
  { h with status := by rw [State.setCode_status, State.setCode_status, h.status] }

theorem State.Alike.raise (k : Code) : (s.raise k).Alike (t.raise k) := h.setCode k

theorem State.Alike.writeRes (v : Word128) : (s.writeRes v).Alike (t.writeRes v) :=
  { h with resWritten := rfl, res := fun _ => rfl }

theorem State.Alike.respond (v : Word128) : (s.respond v).Alike (t.respond v) := (h.writeRes v).setCode .ok

theorem State.Alike.writeSrcerr (tok : Word32) : (s.writeSrcerr tok).Alike (t.writeSrcerr tok) :=
  { h with srcerrWritten := rfl, srcerr := fun _ => rfl }

theorem State.Alike.raiseIoerr (tok : Word32) : (s.raiseIoerr tok).Alike (t.raiseIoerr tok) :=
  (h.writeSrcerr tok).raise .ioerr

theorem State.Alike.setCtx (c : BitVec 4) {x y : Context} (hxy : x.Alike y) : (s.setCtx c x).Alike (t.setCtx c y) :=
  { h with ctxs := forall₂_set h.ctxs hxy c.toNat }

theorem State.Alike.leaveAnswers (as : List Answer) : (s.leaveAnswers as).Alike (t.leaveAnswers as) :=
  { h with srcPort := rfl }

theorem State.Alike.withEngine (f : Option InFlight) :
    State.Alike { s with engine := f } { t with engine := f } :=
  { h with engine := rfl }

theorem State.Alike.popCommand : s.popCommand.Alike t.popCommand :=
  { h with cmdPort := congrArg List.tail h.cmdPort }

theorem State.Alike.takeReset : s.takeReset.Alike t.takeReset where
  resWritten := rfl
  res _ := rfl
  status := rfl
  srcerrWritten := rfl
  srcerr _ := rfl
  ctxs := alike_of_invalid ((s.takeReset_nCtx.trans h.nCtx).trans t.takeReset_nCtx.symm) s.takeReset_invalid
    t.takeReset_invalid
  engine := rfl
  cmdPort := h.cmdPort
  srcPort := h.srcPort
  resetLine := rfl

end

/-! ## Running states that are alike -/

theorem State.Alike.runEngine {L : Type} {s t : State} (h : s.Alike t) (k : EngineKind L) (e : Engine L) :
    (s.runEngine k e).Alike (t.runEngine k e) := by
  unfold State.runEngine
  rw [h.srcPort]
  cases e.phase with
  | final => exact (h.withEngine none).respond _
  | absorb =>
    have hleave := h.leaveAnswers (readLoop k.block e t.srcPort).2
    simp only []
    cases (readLoop k.block e t.srcPort).1 with
    | held e' => exact hleave.withEngine _
    | ended e' => exact (hleave.withEngine none).respond _
    | failed tok => exact (hleave.withEngine none).raiseIoerr tok
    | overlong => exact (hleave.withEngine none).raise .protocol

/-- The two outcomes are next states that are alike. -/
def AlikeNext (o o' : Host.Outcome State Fault Refusal) : Prop :=
  ∃ t t', o = .next t ∧ o' = .next t' ∧ t.Alike t'

theorem State.Alike.exec {s t : State} (h : s.Alike t) (i : Instr) : AlikeNext (exec i s) (exec i t) := by
  cases i with
  | rotl32 r o =>
    by_cases hr : r = 0#5
    · exact ⟨_, _, if_pos hr, if_pos hr, h.raise .illegal⟩
    · exact ⟨_, _, if_neg hr, if_neg hr, h.respond _⟩
  | rotl64 r o =>
    by_cases hr : r = 0#6
    · exact ⟨_, _, if_pos hr, if_pos hr, h.raise .illegal⟩
    · exact ⟨_, _, if_neg hr, if_neg hr, h.respond _⟩
  | fmix32 o => exact ⟨_, _, rfl, rfl, h.respond _⟩
  | fmix64 o => exact ⟨_, _, rfl, rfl, h.respond _⟩
  | s32New c o =>
    rcases h.ctx? c with ⟨hs, ht⟩ | ⟨x, y, hs, ht, -⟩
    · exact ⟨_, _, exec_s32New_absent o hs, exec_s32New_absent o ht, h.raise .illegal⟩
    · exact ⟨_, _, exec_s32New_present o hs, exec_s32New_present o ht, (h.setCtx c (.refl _)).setCode .ok⟩
  | s32Write c o p =>
    rcases Nat.lt_or_ge p.length Config.payloadLimit with hp | hp
    · rcases h.ctx? c with ⟨hs, ht⟩ | ⟨x, y, hs, ht, hxy⟩
      · exact ⟨_, _, exec_s32Write_absent o p hs, exec_s32Write_absent o p ht, h.raise .illegal⟩
      · cases hv : x.valid with
        | false =>
          exact ⟨_, _, exec_s32Write_invalid o hp hs hv, exec_s32Write_invalid o hp ht (hxy.1 ▸ hv), h.raise .uninit⟩
        | true =>
          exact ⟨_, _, exec_s32Write_valid o hp hs hv, exec_s32Write_valid o hp ht (hxy.1 ▸ hv),
            (h.setCtx c (hxy.write hv p)).setCode .ok⟩
    · exact ⟨_, _, exec_s32Write_tooLong o hp, exec_s32Write_tooLong o hp, h.raise .illegal⟩
  | s32Final c o =>
    rcases h.ctx? c with ⟨hs, ht⟩ | ⟨x, y, hs, ht, hxy⟩
    · exact ⟨_, _, exec_s32Final_absent o hs, exec_s32Final_absent o ht, h.raise .illegal⟩
    · cases hv : x.valid with
      | false => exact ⟨_, _, exec_s32Final_invalid o hs hv, exec_s32Final_invalid o ht (hxy.1 ▸ hv), h.raise .uninit⟩
      | true =>
        refine ⟨_, _, exec_s32Final_valid o hs hv, exec_s32Final_valid o ht (hxy.1 ▸ hv), ?_⟩
        rw [hxy.digest hv]
        exact h.respond _
  | x86Hash o => exact ⟨_, _, rfl, rfl, h.runEngine _ _⟩
  | x64Hash o => exact ⟨_, _, rfl, rfl, h.runEngine _ _⟩

theorem State.Alike.accept {s t : State} (h : s.Alike t) (u : Transaction) : AlikeNext (s.accept u) (t.accept u) := by
  rcases decode_cases s.nCtx u with ⟨i, hi⟩ | ⟨why, hwhy⟩
  · rw [accept_ok hi, accept_ok (h.nCtx ▸ hi)]
    exact h.exec i
  · exact ⟨_, _, accept_error hwhy, accept_error (h.nCtx ▸ hwhy), h.raise .illegal⟩

theorem State.Alike.resume {s t : State} (h : s.Alike t) (f : InFlight) : (s.resume f).Alike (t.resume f) := by
  obtain ⟨L, k, e, hk, rfl⟩ := f.exists_kind
  rw [hk.resume, hk.resume]
  exact h.runEngine k e

theorem State.Alike.step {s t : State} (h : s.Alike t) : AlikeNext (step s) (step t) := by
  cases hr : s.resetLine with
  | true => exact ⟨_, _, step_reset hr, step_reset (h.resetLine ▸ hr), h.takeReset⟩
  | false =>
    have hr' : t.resetLine = false := h.resetLine ▸ hr
    cases he : s.engine with
    | some f => exact ⟨_, _, step_held hr he, step_held hr' (h.engine ▸ he), h.resume f⟩
    | none =>
      have he' : t.engine = none := h.engine ▸ he
      cases hc : s.cmdPort with
      | nil => exact ⟨_, _, step_idle hr he hc, step_idle hr' he' (h.cmdPort ▸ hc), h⟩
      | cons u us =>
        have hhead : s.cmdPort.head? = some u := by rw [hc, List.head?_cons]
        rw [step_ready ⟨hr, he, hhead⟩, step_ready ⟨hr', he', h.cmdPort ▸ hhead⟩]
        exact h.popCommand.accept u

/-! ## What a host sees -/

theorem State.Alike.readRes {s t : State} (h : s.Alike t) : s.readRes = t.readRes := by
  unfold State.readRes
  rw [← h.resWritten]
  split_ifs with hw
  · rw [h.res hw]
  · rfl

theorem State.Alike.readSrcerr {s t : State} (h : s.Alike t) : s.readSrcerr = t.readSrcerr := by
  unfold State.readSrcerr
  rw [← h.srcerrWritten]
  split_ifs with hw
  · rw [h.srcerr hw]
  · rfl

theorem State.Alike.readStatus {s t : State} (h : s.Alike t) : s.readStatus = t.readStatus := by
  rw [State.readStatus, State.code, h.status]
  rfl

theorem State.Alike.pendingRequest {s t : State} (h : s.Alike t) : s.pendingRequest = t.pendingRequest := by
  rw [State.pendingRequest, h.engine]
  rfl

/-- Settles O54: a step reads of a context only what alike contexts agree on, and of RES and SRCERR nothing. -/
theorem unspecifiedValuesUnobservable : Obligations.UnspecifiedValuesUnobservable := by
  unfold Obligations.UnspecifiedValuesUnobservable
  refine ⟨fun s s' h => h.step, fun s s' h => ⟨h.readRes, h.readSrcerr, h.readStatus, h.pendingRequest⟩,
    fun s s' h => ⟨fun x => ?_, fun a => ?_, ?_⟩, fun n res srcerr cs hlen hcs => ?_⟩
  · exact { h with cmdPort := congrArg (· ++ [x]) h.cmdPort }
  · exact { h with srcPort := congrArg (· ++ [a]) h.srcPort }
  · exact { h with resetLine := rfl }
  · exact {
      resWritten := rfl
      res := fun hw => by cases hw
      status := rfl
      srcerrWritten := rfl
      srcerr := fun hw => by cases hw
      ctxs := alike_of_invalid (hlen.trans (State.resetOf_nCtx n).symm) hcs (State.resetOf_invalid n)
      engine := rfl
      cmdPort := rfl
      srcPort := rfl
      resetLine := rfl }

end Sys2Proof.Machine
end
